-- ==== Sys2Proof/Word.lean ====
section
/-! DEFINITION. The values the block handles: bytes, 32-bit words and the fixed arrays of them (spec/00_scope.md
section 4, spec/10_state.md R9). -/

namespace Sys2Proof

/-- A byte: 8 bits, unsigned, bit 7 the most significant (R28). -/
abbrev Byte := BitVec 8

/-- A word of the bitplane: 32 bits, unsigned (R36). -/
abbrev Word := BitVec 32

/-- The index register between steps: 0..14. The value 15 is transient inside the completing step and is never
visible between steps (R13), so it has no representation here, as R78 asks. -/
abbrev Index := Fin 15

/-- The 16-byte working buffer (R10, R12). -/
abbrev Buffer := Vector Byte 16

/-- The 15 bytes of a frame or of a completed candidate, in wire order (R27, R47). -/
abbrev Frame := Vector Byte 15

/-- The 13 column magnitudes of a frame (R49). -/
abbrev Columns := Vector Byte 13

/-- Four words: a bitplane, and the display sink's frame (R18, R22). -/
abbrev Bitplane := Vector Word 4

end Sys2Proof
end

