-- ==== Sys2Proof/Config.lean ====
section
/-! DEFINITION. The fixed, compiled-in configuration (R4), the open parameters (R5), and the free values the spec
leaves open. A free value is an opaque constant without a body: no proof can see what it is. -/

namespace Sys2Proof.Config

/-- The byte that starts a command frame (R4, R48). -/
def sentinel : Byte := 0xDD#8

/-- Display columns, and column bytes per frame (R4). -/
abbrev ncols : Nat := 13

/-- Display rows (R4). -/
abbrev nrows : Nat := 8

/-- Bytes per frame (R4). -/
abbrev frameLen : Nat := 15

/-- Buffer offset of column 0 (R4). -/
abbrev payloadOff : Nat := 1

/-- Buffer offset of the checksum byte (R4). -/
abbrev cksumOff : Nat := 14

/-- Bytes in the working buffer (R4). -/
abbrev bufLen : Nat := 16

/-- Greatest rendered column height (R4). -/
abbrev clampMax : Nat := 8

/-- Bits per bitplane word (R4). -/
abbrev wordBits : Nat := 32

/-- Words per bitplane (R4). -/
abbrev nwords : Nat := 4

/-- Logical pixels (R4). -/
abbrev npix : Nat := 104

/-- SHOWN_INIT, what the display shows before the first load: four zero words (R22, D15). -/
def shownInit : Bitplane := Vector.replicate 4 0#32

/-- DESIGN CHOICE (log 8). The content of the buffer at State.reset, which R26 leaves unspecified. Unsafe. -/
def powerOnBuffer : Buffer := Vector.replicate 16 0#8

/-- BAUD, the open serial rate (R5, D17). No rule reads it (log 20). -/
opaque baud : Nat

/-- BOOT_HOLD, the open length of the boot animation's delay (R5, D18). No rule reads it (log 20). -/
opaque bootHold : Nat

/-- ALL_ON, the open four words of the all-on boot frame (R5, D16; log 12). -/
opaque allOn : Bitplane

/-- Free value (log 9): the content of the buffer after the n-th reset event, as a function of the content before
it. R142: the buffer "keeps or loses its content (unspecified, and unobservable ...)". -/
opaque bufferAfterReset : Nat → Buffer → Buffer

/-- Free value (log 3): whether the free-running loop serves the relay rather than the decoder, at its n-th choice
between the two. R42: the order between relay steps and decoder steps is not fixed. -/
opaque relayFirst : Nat → Bool

end Sys2Proof.Config
end

