-- ==== Sys2Proof/Machine/Flags.lean ====
section
/-! DEFINITION. The block has no status flags and no condition codes (R17). The one condition it computes is the
Frame Validator's: the running XOR checksum `acc` and its comparison (spec/42_frame_validator.md). -/

namespace Sys2Proof.Machine

/-- XOR of a sequence of bytes, accumulated in an 8-bit `acc` that starts at 0x00 (R17, R86). -/
def xorAcc (bs : List Byte) : Byte := bs.foldl (fun acc b => acc ^^^ b) 0x00#8

/-- The accumulated checksum of a candidate: the XOR of its first 14 bytes, sentinel and columns (R86). -/
def accOf (f : Frame) : Byte := xorAcc (f.toList.take Config.cksumOff)

/-- R87: the candidate is valid when `acc` equals the byte at offset 14, all 8 bits. The sentinel is not tested; it
is folded into the XOR like the other bytes (R85). -/
def validate (f : Frame) : Bool := accOf f == f[14]

/-- The checksum a sender computes for 13 columns: 0xDD ^ c0 ^ ... ^ c12 (R50, R53). -/
def checksumOf (cols : Columns) : Byte := xorAcc (Config.sentinel :: cols.toList)

end Sys2Proof.Machine
end

