-- ==== Sys2Proof/Syntax.lean ====
section
/-! DEFINITION. The instructions: one constructor per row of spec/opcode_table.json; the grain at which the decoder
takes its turn; and the lines of the assembly notation of R61 and R62. -/

namespace Sys2Proof

/-- The one command of the wire protocol and the four byte-step classes (R8, R47, R59). -/
inductive Instr where
  /-- The command SPECTRUM: 13 column magnitudes and the checksum byte that was sent (R47, R113). -/
  | spectrum (cols : Columns) (checksum : Byte)
  /-- The sentinel met while idle (R72). -/
  | start
  /-- A byte other than the sentinel met while idle (R73). -/
  | discard (b : Byte)
  /-- A byte met while index is 1..13 (R74). -/
  | append (b : Byte)
  /-- A byte met while index is 14, taken as the checksum byte (R75). -/
  | complete (b : Byte)
deriving DecidableEq, Repr

/-- The grain of one decoder turn: one delivered byte (R6), or the 15 bytes of a whole command taken together
(R113). DESIGN CHOICE (log 1). -/
inductive Grain where
  | byte
  | command
deriving DecidableEq, Repr

/-- A line of the assembly notation (R61) or one of its pseudo-instructions (R62). -/
inductive Line where
  /-- SPECTRUM c0, ..., c12: the checksum is computed. -/
  | spectrum (cols : Columns)
  /-- FRAME b0, ..., b14: exactly those 15 bytes, unchecked. -/
  | frame (bytes : Frame)
  /-- BYTE b. -/
  | byte (b : Byte)
  /-- BYTES b, b, ... -/
  | bytes (bs : List Byte)
  /-- CLEAR: SPECTRUM with every column 0. -/
  | clear
  /-- FULL: SPECTRUM with every column 8. -/
  | full
  /-- BAR c, h: SPECTRUM with column c = h and every other column 0. -/
  | bar (c : Fin 13) (h : Byte)
  /-- FLUSH: fourteen zero bytes. -/
  | flush
  /-- NOISE b, ...: those bytes, where the writer asserts that none is 0xDD. -/
  | noise (bs : List Byte)
deriving DecidableEq, Repr

end Sys2Proof
end

