-- ==== Sys2Proof/WellFormed.lean ====
section
/-! DEFINITION. What the encoding asks of an instruction beyond its fields: the checksum constraint of a SPECTRUM
frame (R53) and the byte condition of DISCARD (R59). And what the notation asks of a line: NOISE holds no sentinel
(R62). -/

namespace Sys2Proof

/-- Whether an instruction satisfies the constraints of its row of the opcode table. -/
def Instr.wf : Instr → Bool
  | .spectrum cols checksum => checksum == Machine.checksumOf cols
  | .start => true
  | .discard b => b != Config.sentinel
  | .append _ => true
  | .complete _ => true

/-- Whether a line keeps what its writer asserts (R62, NOISE). -/
def Line.wf : Line → Bool
  | .noise bs => bs.all (fun b => b != Config.sentinel)
  | .spectrum _ => true
  | .frame _ => true
  | .byte _ => true
  | .bytes _ => true
  | .clear => true
  | .full => true
  | .bar _ _ => true
  | .flush => true

end Sys2Proof
end

