-- ==== Sys2Proof/Decode.lean ====
section
/-! DEFINITION. The decoder: total on any bytes at any index, rejecting by name (spec/30_encoding.md). After it the
encoder, the assembler of R61 and R62, and the decoder's reading of a word of spec/opcode_table.json. -/

namespace Sys2Proof

/-- Why the decoder reads no instruction. None of these is an error of the block (R56 "nothing traps"): a turn that
meets one passes, or reads one byte instead of a frame. Safe. -/
inductive DecodeReject where
  /-- No delivered byte is left (R71 "When no byte is available nothing happens"). -/
  | noByte
  /-- A whole frame was asked for while the synchronizer is not idle: its sentinel is not recognised (R34). -/
  | notIdle
  /-- A whole frame was asked for and the first byte is not the sentinel (R54). -/
  | noSentinel
  /-- A whole frame was asked for and fewer than 15 bytes have been delivered (R55). -/
  | shortFrame
deriving DecidableEq, Repr

/-- R59: the byte-step class of a byte, decided by `index` and, only when `index = 0`, by the byte's value. -/
def classify (i : Index) (b : Byte) : Instr :=
  if i.val = 0 then
    if b = Config.sentinel then .start else .discard b
  else if i.val ≤ 13 then .append b
  else .complete b

/-- One byte-step instruction from the front of the stream (R36, R38). -/
def decodeByte (i : Index) : List Byte → Except DecodeReject (Instr × List Byte)
  | [] => .error .noByte
  | b :: rest => .ok (classify i b, rest)

/-- One whole frame from the front of the stream: the sentinel met while idle, 13 columns, the checksum byte
(R47, R48, R52). The checksum is not tested here: that is the validator's (R87). -/
def decodeFrame (i : Index) : List Byte → Except DecodeReject (Instr × List Byte)
  | [] => .error .noByte
  | s :: rest =>
    if i.val = 0 then
      if s = Config.sentinel then
        if h : 14 ≤ rest.length then
          .ok (.spectrum (Vector.ofFn (fun c : Fin 13 => rest[c.val]'(by omega))) (rest[13]'(by omega)),
            rest.drop 14)
        else .error .shortFrame
      else .error .noSentinel
    else .error .notIdle

/-- The decoder at either grain. A turn at the grain of a command that finds no whole frame at the front of the
stream reads one byte (log 1). -/
def decode (g : Grain) (i : Index) (bs : List Byte) : Except DecodeReject (Instr × List Byte) :=
  match g with
  | .byte => decodeByte i bs
  | .command =>
    match decodeFrame i bs with
    | .ok r => .ok r
    | .error _ => decodeByte i bs

/-- The grain an instruction is read at. -/
def Instr.grain : Instr → Grain
  | .spectrum _ _ => .command
  | .start => .byte
  | .discard _ => .byte
  | .append _ => .byte
  | .complete _ => .byte

/-- R59, column "`index` before": whether the row of an instruction can be taken at an index. For SPECTRUM the
precondition of R113: the synchronizer is idle. -/
def Instr.takenAt (i : Instr) (idx : Index) : Bool :=
  match i with
  | .spectrum _ _ => idx.val == 0
  | .start => idx.val == 0
  | .discard _ => idx.val == 0
  | .append _ => decide (1 ≤ idx.val) && decide (idx.val ≤ 13)
  | .complete _ => idx.val == 14

/-! ### The encoder -/

/-- The bytes of an instruction in delivery order (R27, R47, R59). -/
def encode : Instr → List Byte
  | .spectrum cols checksum => Config.sentinel :: (cols.toList ++ [checksum])
  | .start => [Config.sentinel]
  | .discard b => [b]
  | .append b => [b]
  | .complete b => [b]

/-- How many bytes an instruction has (R55, R59). -/
def Instr.size : Instr → Nat
  | .spectrum _ _ => Config.frameLen
  | .start => 1
  | .discard _ => 1
  | .append _ => 1
  | .complete _ => 1

/-- The command SPECTRUM with its right checksum (R113). -/
def spectrumOf (cols : Columns) : Instr := .spectrum cols (Machine.checksumOf cols)

/-- The 13 operands of BAR c, h (R62). -/
def barColumns (c : Fin 13) (h : Byte) : Columns := Vector.ofFn (fun k : Fin 13 => if k = c then h else 0#8)

/-- R61, R62: the bytes a line assembles to. -/
def assemble : Line → List Byte
  | .spectrum cols => encode (spectrumOf cols)
  | .frame bytes => bytes.toList
  | .byte b => [b]
  | .bytes bs => bs
  | .clear => encode (spectrumOf (Vector.replicate 13 0#8))
  | .full => encode (spectrumOf (Vector.replicate 13 8#8))
  | .bar c h => encode (spectrumOf (barColumns c h))
  | .flush => List.replicate 14 0#8
  | .noise bs => bs

/-- R61: a program's encoding is the concatenation of its lines' bytes, in order. -/
def assembleProgram (p : List Line) : List Byte := p.flatMap assemble

/-! ### Words of spec/opcode_table.json (log 14) -/

/-- The 15 bytes of a 120-bit table word: bits 119..112 are the byte at offset 0, bits 7..0 the byte at offset 14,
as the note of the table's SPECTRUM row numbers them. -/
def tableFrameBytes (w : Nat) : List Byte :=
  (List.range Config.frameLen).map (fun k => BitVec.ofNat 8 (w >>> (8 * (Config.cksumOff - k))))

/-- The index a table word of nbits bits is read at. An 8-bit word carries no index condition and is read while
idle. A 16-bit word is of a row whose listed index bits reach past the byte: bit 14 is COMPLETE's, else APPEND's. -/
def tableIndex (nbits w : Nat) : Index :=
  if nbits ≤ 8 then 0
  else if nbits ≤ 16 then (if w.testBit 14 then 14 else 1)
  else 0

/-- The bytes of a table word, in delivery order. -/
def tableBytes (nbits w : Nat) : List Byte :=
  if nbits ≤ 16 then [BitVec.ofNat 8 w] else tableFrameBytes w

/-- The grain a table word is read at: 8 and 16 bits are byte steps, more is the 120-bit frame. -/
def tableGrain (nbits : Nat) : Grain :=
  if nbits ≤ 16 then .byte else .command

/-- The decoder applied at the grain of a table word, with no fallback from a frame to a byte. -/
def decodeAtGrain (g : Grain) (i : Index) (bs : List Byte) : Except DecodeReject (Instr × List Byte) :=
  match g with
  | .byte => decodeByte i bs
  | .command => decodeFrame i bs

/-- The instruction the decoder reads from a table word. -/
def decodeTableWord (nbits w : Nat) : Option Instr :=
  match decodeAtGrain (tableGrain nbits) (tableIndex nbits w) (tableBytes nbits w) with
  | .ok (i, _) => some i
  | .error _ => none

end Sys2Proof
end

