-- ==== Sys2Proof/Machine/State.lean ====
section
/-! DEFINITION. The state of the block and of its boundary as plain data (spec/10_state.md R9, R22, R24), the outputs
observed there (R117), the model's own scheduling fields, and the state after power-on. -/

namespace Sys2Proof.Machine

/-- The result tag of a decoder step (R80). It is an output of `decoderStep` and no field of State: "It is not
state". -/
inductive Tag where
  | needMoreBytes
  | frameReady (cols : Columns) (plane : Bitplane)
  | discarded
  | frameDropped
deriving DecidableEq, Repr

/-- What happens next: a turn of one of the two agents, or an event of the environment (R7, R116, R141). A move that
finds nothing to do passes (log 2). -/
inductive Move where
  /-- The decoder's turn: one delivered command byte, if there is one (R6). -/
  | decode
  /-- The decoder's turn, taken as a whole command where a whole frame is at the front of the stream (log 1). -/
  | command
  /-- The relay's turn: one sensor byte, if there is one and the host-facing output can take it (R66). -/
  | relay
  /-- The reset event, between two steps (R141, R142). -/
  | reset
  /-- The reset event together with a command byte: reset wins and the byte is lost (R143, log 19). -/
  | resetWithByte
  /-- Power-on of the whole bridge, with its boot animation (R144, R145, log 11, 12). -/
  | powerOn
  /-- The host link delivers a command byte (R7). -/
  | deliverCommand (b : Byte)
  /-- The sensor link delivers a telemetry byte (R7). -/
  | deliverSensor (b : Byte)
  /-- The host-facing output becomes able, or unable, to take a byte (R66). -/
  | hostReady (ready : Bool)
deriving DecidableEq, Repr

/-- The block raises no exception (R121) and "Nothing in the block is treated as fault": there is no fault. Safe. -/
inductive Fault : Type
deriving DecidableEq, Repr

/-- The reasons of a refusal. -/
inductive Refusal where
  /-- Raised by an arm of exec for an instruction without a meaning. No arm raises it. Safe. -/
  | notModelled (mnemonic : String)
  /-- Raised by the meaning of a byte-step class at an index, or for a byte, at which R59 does not take that row: the
  instruction does not occur there. No step raises it, since the decoder classifies by the index (log 13). Safe. -/
  | rowNotTaken (mnemonic : String)
deriving DecidableEq, Repr

/-- The state. `index` and `buffer` are the whole state of the block (R9); `shown` is the display sink's frame (R22);
`cmdIn`, `sensorIn` and `hostReady` are the environment's (R24, R66); `hostOut` and `loads` are the two observed
output sequences (R117); `agenda`, `picks` and `resets` are the model's own. -/
@[ext]
structure State where
  /-- Count of bytes of the current candidate (R13). -/
  index : Index
  /-- The working buffer (R10). -/
  buffer : Buffer
  /-- The display sink's current frame (R22). -/
  shown : Bitplane
  /-- Command bytes delivered and not yet consumed, first to be consumed first (R24, R38; log 4). -/
  cmdIn : List Byte
  /-- Sensor bytes delivered and not yet relayed, first to be relayed first (R24, R38; log 4). -/
  sensorIn : List Byte
  /-- Whether the host-facing output can take a byte (R66; log 5). -/
  hostReady : Bool
  /-- The bytes written to the host-facing output since power-on, in order (R117 b; log 6). -/
  hostOut : List Byte
  /-- The loads of the display sink since power-on, in order (R117 a; log 6). -/
  loads : List Bitplane
  /-- The moves to come; where it is empty the polling loop runs on (log 2, 3). -/
  agenda : List Move
  /-- How many free choices between the two agents have been made (log 3). -/
  picks : Nat
  /-- How many reset events there have been (log 9). -/
  resets : Nat
deriving DecidableEq, Repr

/-- The machine after power-on and the boot animation, before the first step (R26, R145, R146): idle, the display
dark, no byte of either stream consumed. The buffer's content is unspecified by R26 and is DESIGN CHOICE (log 8), as
are the values of the fields that are not the block's (log 2 to 6, 9). -/
def State.reset : State where
  index := 0
  buffer := Config.powerOnBuffer
  shown := Config.shownInit
  cmdIn := []
  sensorIn := []
  hostReady := true
  hostOut := []
  loads := []
  agenda := []
  picks := 0
  resets := 0

end Sys2Proof.Machine
end

