-- ==== Sys2Proof/Machine/Operands.lean ====
section
/-! DEFINITION. Operand assembly from the buffer: the candidate the validator gets (R85), the 13 columns the
compositor gets (R52, R93), and the clamp of a column (R95). -/

namespace Sys2Proof.Machine

/-- The buffer position a byte is stored at when `index` holds i (R10, R16). -/
def slotOf (i : Index) : Fin 16 := i.castSucc

/-- The position of the sentinel in the buffer (R11, R72). -/
abbrev sentinelSlot : Fin 16 := ⟨0, by decide⟩

/-- The position of the checksum byte in the buffer (R11, R75). -/
abbrev cksumSlot : Fin 16 := ⟨14, by decide⟩

/-- R85: the completed candidate is `buffer[0..14]`. -/
def candidateOf (buf : Buffer) : Frame := Vector.ofFn (fun k : Fin 15 => buf[k.val])

/-- R52: `cols[c] = buffer[1 + c]`, each byte as it is, unsigned. -/
def columnsOf (buf : Buffer) : Columns := Vector.ofFn (fun c : Fin 13 => buf[1 + c.val])

/-- R95: `min(v, 8)` of an unsigned byte. -/
def clampHeight (v : Byte) : Nat := min v.toNat Config.clampMax

end Sys2Proof.Machine
end

