-- ==== Sys2Proof/Machine/Compositor.lean ====
section
/-! DEFINITION. The Bitmap Compositor: 13 column heights to a packed bitplane (spec/43_bitmap_compositor.md), and the
reading of a pixel of a bitplane (R30, R109). -/

namespace Sys2Proof.Machine

/-- R96: the visual row of height unit h; rows grow upward from row 7, the bottom. -/
def rowOf (h : Nat) : Nat := (Config.nrows - 1) - h

/-- R97: the flattened bit index of pixel (r, c), row-major. -/
def bitIndex (r c : Nat) : Nat := r * Config.ncols + c

/-- R98: the word a flattened bit lives in. -/
def wordIndex (p : Nat) : Nat := p / Config.wordBits

/-- R98: its bit position there, most significant bit first. -/
def bitPos (p : Nat) : Nat := (Config.wordBits - 1) - p % Config.wordBits

/-- R99, with the guard of R100: a bit whose word index is 4 or more is skipped, not wrapped. -/
def setBit (plane : Bitplane) (p : Nat) : Bitplane :=
  if h : wordIndex p < 4 then
    plane.set (wordIndex p) (plane[wordIndex p] ||| (1#32 <<< bitPos p))
  else plane

/-- The flattened bits of the bar of column c at height m, bottom row first (R96, R97). -/
def barBits (c m : Nat) : List Nat := (List.range m).map (fun h => bitIndex (rowOf h) c)

/-- One column of the composition: clamp, then set every bit of the bar (R95 to R99). -/
def drawColumn (plane : Bitplane) (c : Nat) (v : Byte) : Bitplane :=
  (barBits c (clampHeight v)).foldl setBit plane

/-- R94: the all-zero plane every composition starts from. -/
def emptyPlane : Bitplane := Vector.replicate 4 0#32

/-- R101: the whole composition, columns 0 to 12 in order. -/
def compose (cols : Columns) : Bitplane :=
  (List.finRange 13).foldl (fun plane (c : Fin 13) => drawColumn plane c.val cols[c]) emptyPlane

/-- The value of flattened bit p of a plane, false where there is no such bit (R30). -/
def planeBit (plane : Bitplane) (p : Nat) : Bool :=
  if h : wordIndex p < 4 then plane[wordIndex p].getLsbD (bitPos p) else false

/-- R109: whether pixel (row r, column c) is lit. -/
def lit (plane : Bitplane) (r : Fin 8) (c : Fin 13) : Bool := planeBit plane (bitIndex r.val c.val)

/-- R32: the 24 bits that correspond to no pixel are zero. -/
def unusedClear (plane : Bitplane) : Bool := plane[3] &&& 0x00FFFFFF#32 == 0#32

end Sys2Proof.Machine
end

