-- ==== Sys2Proof/Machine/Ops.lean ====
section
/-! DEFINITION. The named operations over the state that the meanings share: buffer read and store, the index, the
display sink's load, the relay's output, the decoder step as one function (R79), runs (R119), and the reset event.

There is no exception entry and no return from one (R121, R132, R133): the block's whole recovery action is
`toIdle` (R128). -/

namespace Sys2Proof.Machine

/-! ### The buffer and the index -/

/-- `MemRead(k, 1)`, which is `buffer[k]` (spec/00_scope.md section 4). -/
def State.readBuffer (s : State) (k : Fin 16) : Byte := s.buffer[k.val]

/-- `MemWrite(k, 1, b)`, which is `buffer[k] <- b` (spec/00_scope.md section 4). -/
def State.storeAt (s : State) (k : Fin 16) (b : Byte) : State := { s with buffer := s.buffer.set k.val b }

/-- `index <- i`. -/
def State.setIndex (s : State) (i : Index) : State := { s with index := i }

/-- The recovery action of every condition that has one, and the end of every candidate: `index <- 0` (R75, R128). -/
def State.toIdle (s : State) : State := s.setIndex 0

/-! ### The outputs -/

/-- The display sink's one operation: all four words replace the frame shown, at once (R37, R107); it is one load
whatever was shown (R110). -/
def State.load (s : State) (plane : Bitplane) : State :=
  { s with shown := plane, loads := s.loads ++ [plane] }

/-- `emit Relay(b)`: one byte written to the host-facing output (R68). -/
def State.emitRelay (s : State) (b : Byte) : State := { s with hostOut := s.hostOut ++ [b] }

/-! ### The streams and the agenda -/

/-- The command bytes not yet consumed become bs (R38). -/
def State.setCmdIn (s : State) (bs : List Byte) : State := { s with cmdIn := bs }

/-- The sensor bytes not yet relayed become bs (R38). -/
def State.setSensorIn (s : State) (bs : List Byte) : State := { s with sensorIn := bs }

/-- The environment's readiness to take a relayed byte (R66). -/
def State.setHostReady (s : State) (ready : Bool) : State := { s with hostReady := ready }

/-- The moves to come (log 2). -/
def State.setAgenda (s : State) (ms : List Move) : State := { s with agenda := ms }

/-- One more free choice has been made (log 3). -/
def State.countPick (s : State) : State := { s with picks := s.picks + 1 }

/-! ### The decoder step as one function -/

/-- What a decoder step yields: the new state, a result tag and at most one load (R114). -/
structure StepResult where
  state : State
  tag : Tag
  load : Option Bitplane
deriving DecidableEq, Repr

/-- R126: the numbers this spec gives the tags. -/
def tagCode : Tag → Nat
  | .needMoreBytes => 0
  | .frameReady _ _ => 1
  | .discarded => 2
  | .frameDropped => 3

/-- R79: `decoder_step(b)`, the synchronizer step as one function. -/
def decoderStep (s : State) (b : Byte) : StepResult :=
  if s.index.val = 0 then
    if b = Config.sentinel then
      ⟨(s.storeAt sentinelSlot b).setIndex 1, .needMoreBytes, none⟩
    else ⟨s, .discarded, none⟩
  else
    let stored := s.storeAt (slotOf s.index) b
    if h : s.index.val + 1 < 15 then
      ⟨stored.setIndex ⟨s.index.val + 1, h⟩, .needMoreBytes, none⟩
    else if validate (candidateOf stored.buffer) then
      let plane := compose (columnsOf stored.buffer)
      ⟨(stored.load plane).toIdle, .frameReady (columnsOf stored.buffer) plane, some plane⟩
    else ⟨stored.toIdle, .frameDropped, none⟩

/-- What a run over a byte sequence yields: the last state, every step's tag, and the loads in order (R119). -/
structure RunResult where
  state : State
  tags : List Tag
  loads : List Bitplane
deriving DecidableEq, Repr

/-- R119: `run(s, B)`, the decoder step over a finite byte sequence. -/
def runBytes (s : State) : List Byte → RunResult
  | [] => ⟨s, [], []⟩
  | b :: bs =>
    let r := decoderStep s b
    let q := runBytes r.state bs
    ⟨q.state, r.tag :: q.tags, r.load.toList ++ q.loads⟩

/-! ### Reset and power-on -/

/-- R142: the effect of reset is `index <- 0`; the buffer "keeps or loses its content", a free value (log 9). The
sink, the relay and the streams are not touched (R144). -/
def resetEvent (s : State) : State :=
  { s with index := 0, buffer := Config.bufferAfterReset s.resets s.buffer, resets := s.resets + 1 }

/-- R143: reset together with a command byte. Reset wins; the byte is not consumed by the decoder and is lost
(log 19). -/
def resetDropping (s : State) : State := (resetEvent s).setCmdIn s.cmdIn.tail

/-- R144, R145: power-on of the whole bridge. The parser is reset; the boot animation shows one all-on frame, then
one all-off frame, neither counted among the loads (R111); the observed sequences begin anew (log 11, 12). -/
def powerOn (s : State) : State :=
  let booting := { resetEvent s with shown := Config.allOn }
  { booting with shown := Config.shownInit, loads := [], hostOut := [] }

end Sys2Proof.Machine
end

