-- ==== Sys2Proof/Machine/Command.lean ====
section
/-! DEFINITION. The meaning of the command SPECTRUM (spec/45_command_and_step.md R113). -/

namespace Sys2Proof.Machine

/-- R113: the effect of the 15 decoder steps together, over the bytes of the frame in delivery order. From idle this
is the effect R113 states; with a wrong checksum the candidate is dropped (R88); where the precondition fails "the
bytes are still consumed, by rules R72 to R75" (log 18). -/
def execSpectrum (cols : Columns) (checksum : Byte) (s : State) : Host.Outcome State Fault Refusal :=
  .next (runBytes s (encode (.spectrum cols checksum))).state

end Sys2Proof.Machine
end

