-- ==== Sys2Proof/Machine/Synchronizer.lean ====
section
/-! DEFINITION. The meanings of the four byte-step classes: the transitions of the Frame Synchronizer
(spec/41_frame_synchronizer.md R72 to R75). At an index, or for a byte, at which R59 does not take the row, the
meaning refuses by name (log 13); no step gets there. -/

namespace Sys2Proof.Machine

/-- R72: `buffer[0] <- 0xDD`, `index <- 1`. -/
def execStart (s : State) : Host.Outcome State Fault Refusal :=
  if s.index.val = 0 then
    .next ((s.storeAt sentinelSlot Config.sentinel).setIndex 1)
  else .refused (.rowNotTaken "START")

/-- R73: no state change. -/
def execDiscard (b : Byte) (s : State) : Host.Outcome State Fault Refusal :=
  if s.index.val = 0 ∧ b ≠ Config.sentinel then
    .next s
  else .refused (.rowNotTaken "DISCARD")

/-- R74: `buffer[index] <- b`, `index <- index + 1`, whatever the byte (R76). -/
def execAppend (b : Byte) (s : State) : Host.Outcome State Fault Refusal :=
  if h : 1 ≤ s.index.val ∧ s.index.val ≤ 13 then
    .next ((s.storeAt (slotOf s.index) b).setIndex ⟨s.index.val + 1, by omega⟩)
  else .refused (.rowNotTaken "APPEND")

/-- R75: `buffer[14] <- b`; validate; if valid, compose and load (R87, R107); if not, drop in silence (R88);
`index <- 0` in both cases. -/
def execComplete (b : Byte) (s : State) : Host.Outcome State Fault Refusal :=
  if s.index.val = 14 then
    let stored := s.storeAt cksumSlot b
    if validate (candidateOf stored.buffer) then
      .next (stored.load (compose (columnsOf stored.buffer))).toIdle
    else .next stored.toIdle
  else .refused (.rowNotTaken "COMPLETE")

end Sys2Proof.Machine
end

