-- ==== Sys2Proof/Machine/Dispatch.lean ====
section
/-! DEFINITION. The meaning of every instruction, one arm per row of spec/opcode_table.json. -/

namespace Sys2Proof.Machine

def exec (i : Instr) (s : State) : Host.Outcome State Fault Refusal :=
  match i with
  | .spectrum cols checksum => Sys2Proof.Machine.execSpectrum cols checksum s
  | .start => Sys2Proof.Machine.execStart s
  | .discard b => Sys2Proof.Machine.execDiscard b s
  | .append b => Sys2Proof.Machine.execAppend b s
  | .complete b => Sys2Proof.Machine.execComplete b s

end Sys2Proof.Machine
end

