-- ==== Sys2Proof/Machine/Relay.lean ====
section
/-! DEFINITION. The Byte Relay (spec/40_byte_relay.md). -/

namespace Sys2Proof.Machine

/-- R66, R116: a relay step is enabled when a sensor byte waits and the host-facing output can take one. -/
def relayEnabled (s : State) : Bool := !s.sensorIn.isEmpty && s.hostReady

/-- One turn of the relay: the step of R68 on the first sensor byte where it is enabled. While the output cannot take
a byte the step has not happened, and the byte stays where it is (R66). -/
def relayTurn (s : State) : State :=
  match s.sensorIn with
  | [] => s
  | b :: rest => if s.hostReady then (s.emitRelay b).setSensorIn rest else s

end Sys2Proof.Machine
end

