-- ==== Sys2Proof/Machine/Loop.lean ====
section
/-! DEFINITION. One turn of the loop (R115, R116): the decoder's turn, the relay's turn, the environment's events,
and the free-running loop where the agenda is empty. And the placing of a table word where the decoder takes its next
instruction. -/

namespace Sys2Proof.Machine

/-- The decoder's turn: the bytes of one instruction are consumed (R38) and the instruction is executed. When no byte
is available nothing happens (R71). -/
def decoderTurn (g : Grain) (s : State) : Host.Outcome State Fault Refusal :=
  match decode g s.index s.cmdIn with
  | .ok (i, rest) => exec i (s.setCmdIn rest)
  | .error _ => .next s

/-- One move of the agenda. -/
def takeMove (m : Move) (s : State) : Host.Outcome State Fault Refusal :=
  match m with
  | .decode => decoderTurn .byte s
  | .command => decoderTurn .command s
  | .relay => .next (relayTurn s)
  | .reset => .next (resetEvent s)
  | .resetWithByte => .next (resetDropping s)
  | .powerOn => .next (powerOn s)
  | .deliverCommand b => .next (s.setCmdIn (s.cmdIn ++ [b]))
  | .deliverSensor b => .next (s.setSensorIn (s.sensorIn ++ [b]))
  | .hostReady ready => .next (s.setHostReady ready)

/-- The polling loop where the agenda names no move: the one agent that has a byte waiting takes its turn; where both
have one, a free value picks (R42, log 3); where neither has, nothing happens (R71). A relay whose output cannot take
a byte stalls the loop for that turn (R66, R69). -/
def freeTurn (s : State) : Host.Outcome State Fault Refusal :=
  match s.cmdIn, s.sensorIn with
  | _, [] => decoderTurn .byte s
  | [], _ :: _ => .next (relayTurn s)
  | _ :: _, _ :: _ =>
    if Config.relayFirst s.picks then .next (relayTurn s.countPick)
    else decoderTurn .byte s.countPick

/-- One turn: the next move of the agenda, or the free-running loop. -/
def loopTurn (s : State) : Host.Outcome State Fault Refusal :=
  match s.agenda with
  | [] => freeTurn s
  | m :: rest => takeMove m (s.setAgenda rest)

/-- The move that makes the decoder read at a grain. -/
def moveOf : Grain → Move
  | .byte => .decode
  | .command => .command

/-- The state at an index at which a table word is read (log 15). Where the index changes to a collecting one, a
candidate in progress is laid out as R11 has it: `buffer[0]` is the sentinel. -/
def selectIndex (s : State) (i : Index) : State :=
  if s.index = i then s
  else if i.val = 0 then s.setIndex i
  else (s.storeAt sentinelSlot Config.sentinel).setIndex i

/-- A table word at the front of the command stream, the index it is read at, and the decoder's turn (log 15). -/
def placeWord (s : State) (nbits w : Nat) : State :=
  ((selectIndex s (tableIndex nbits w)).setCmdIn (tableBytes nbits w ++ s.cmdIn)).setAgenda
    (moveOf (tableGrain nbits) :: s.agenda)

end Sys2Proof.Machine
end

