-- ==== Sys2Proof/Machine/Step.lean ====
section
/-! DEFINITION. The step of the machine, and the placing of an instruction where the step takes its next one. -/

namespace Sys2Proof.Machine

/-- One step of the whole block: one move of the agenda, or one turn of the free-running loop (R114 to R116). -/
def step (s : State) : Host.Outcome State Fault Refusal := loopTurn s

/-- s with the instruction of a table word at the front of the command stream and the decoder's turn next
(log 15). -/
def State.withFetchWord (s : State) (nbits w : Nat) : State := placeWord s nbits w

end Sys2Proof.Machine
end

