-- ==== Sys2Proof/Safety.lean ====
section
/-! DEFINITION. The terms statements about runs use: the invariant of the state between steps, sentinel-free byte
sequences, clean lines of the notation and the planes they show, and the turns of the two agents. -/

namespace Sys2Proof.Machine

/-- The invariant between two steps: while collecting, `buffer[0]` is the sentinel (R15 b; the range of R15 a is the
type of `index`); every plane loaded, and the one shown, has its unused bits clear (R32); and the display shows the
last load since power-on, or SHOWN_INIT (R117). -/
abbrev Inv (s : State) : Prop :=
  (s.index.val ≠ 0 → s.readBuffer sentinelSlot = Config.sentinel) ∧
  (∀ plane ∈ s.loads, unusedClear plane = true) ∧
  unusedClear s.shown = true ∧
  s.shown = s.loads.getLastD Config.shownInit

/-- No byte of the sequence is the sentinel (R81). -/
abbrev SentinelFree (bs : List Byte) : Prop := ∀ b ∈ bs, b ≠ Config.sentinel

/-- Nothing delivered is left to consume (R120). -/
abbrev Quiescent (s : State) : Prop := s.cmdIn = [] ∧ s.sensorIn = []

/-- A line that is a whole valid command, or bytes without a sentinel (R119). -/
def cleanLine : Line → Bool
  | .spectrum _ => true
  | .frame _ => false
  | .byte b => b != Config.sentinel
  | .bytes bs => bs.all (fun b => b != Config.sentinel)
  | .clear => true
  | .full => true
  | .bar _ _ => true
  | .flush => true
  | .noise bs => bs.all (fun b => b != Config.sentinel)

/-- The planes a clean line shows: one for a command, none for noise (R113, R119). -/
def planesOf : Line → List Bitplane
  | .spectrum cols => [compose cols]
  | .frame _ => []
  | .byte _ => []
  | .bytes _ => []
  | .clear => [compose (Vector.replicate 13 0#8)]
  | .full => [compose (Vector.replicate 13 8#8)]
  | .bar c h => [compose (barColumns c h)]
  | .flush => []
  | .noise _ => []

/-- The turns of the two agents at the grain of a byte (R116). -/
def isAgentTurn : Move → Bool
  | .decode => true
  | .relay => true
  | .command => false
  | .reset => false
  | .resetWithByte => false
  | .powerOn => false
  | .deliverCommand _ => false
  | .deliverSensor _ => false
  | .hostReady _ => false

/-- The moves that leave the sensor link's environment and the power alone: turns of either agent, command traffic
and resets of the parser (R70). -/
def isRelayOrCommandTraffic : Move → Bool
  | .decode => true
  | .relay => true
  | .command => true
  | .reset => true
  | .resetWithByte => true
  | .deliverCommand _ => true
  | .powerOn => false
  | .deliverSensor _ => false
  | .hostReady _ => false

end Sys2Proof.Machine
end

