-- ==== Sys2Proof/Certificates/Slice0/Obligations.lean ====
section
/-! DEFINITION. The statements for the provers. "The model's choice (log n)" in a docstring marks what rests on
notes/assumptions/n.md and not on a rule of spec/. -/

open Sys2Proof Sys2Proof.Machine

/-! ### The transitions of the Frame Synchronizer -/

/-- R72. From idle START completes: the sentinel is stored at position 0, index becomes 1, nothing else changes; the
tag is NeedMoreBytes, there is no load; and no other byte value leaves idle. -/
def Obligations.StartFromIdle : Prop :=
  ∀ s : State, s.index = 0 →
    exec .start s = .next { s with buffer := s.buffer.set 0 0xDD#8, index := 1 } ∧
    decoderStep s 0xDD#8 =
      ⟨{ s with buffer := s.buffer.set 0 0xDD#8, index := 1 }, .needMoreBytes, none⟩ ∧
    ∀ b : Byte, (decoderStep s b).state.index ≠ 0 → b = 0xDD#8

/-- R73. From idle DISCARD completes for each of the 255 byte values other than 0xDD and changes no state; the tag is
Discarded, there is no load. -/
def Obligations.DiscardFromIdle : Prop :=
  ∀ (s : State) (b : Byte), s.index = 0 → b ≠ 0xDD#8 →
    exec (.discard b) s = .next s ∧ decoderStep s b = ⟨s, .discarded, none⟩

/-- R74. At index 1..13 APPEND completes for any byte: it is stored at position index, index goes up by 1 (to 2..14),
nothing else changes; the tag is NeedMoreBytes, there is no load. -/
def Obligations.AppendWhileCollecting : Prop :=
  ∀ (s : State) (b : Byte) (_ : 1 ≤ s.index.val) (h : s.index.val ≤ 13),
    let t : State :=
      { s with buffer := s.buffer.set s.index.val b (by omega), index := ⟨s.index.val + 1, by omega⟩ }
    exec (.append b) s = .next t ∧ decoderStep s b = ⟨t, .needMoreBytes, none⟩

/-- R75, R88. At index 14 COMPLETE completes for any byte. The byte is stored at position 14 and index becomes 0 in
both cases. If it equals the XOR of `buffer[0..13]`, the plane composed from `buffer[1..13]` is loaded, once, and the
tag is FrameReady; if not, nothing else changes and the tag is FrameDropped. -/
def Obligations.CompleteAtFourteen : Prop :=
  ∀ (s : State) (b : Byte), s.index.val = 14 →
    let stored : State := { s with buffer := s.buffer.set 14 b, index := 0 }
    let cols : Columns := Vector.ofFn (fun c : Fin 13 => s.buffer[1 + c.val])
    (xorAcc (s.buffer.toList.take 14) = b →
      let t : State := { stored with shown := compose cols, loads := s.loads ++ [compose cols] }
      exec (.complete b) s = .next t ∧
      decoderStep s b = ⟨t, .frameReady cols (compose cols), some (compose cols)⟩) ∧
    (xorAcc (s.buffer.toList.take 14) ≠ b →
      exec (.complete b) s = .next stored ∧ decoderStep s b = ⟨stored, .frameDropped, none⟩)

/-- The byte-step classes refuse by name where R59 does not take their row, and only there. The model's choice
(log 13); the conditions are those of R59. -/
def Obligations.RowNotTakenIsRefused : Prop :=
  ∀ (s : State) (b : Byte),
    (exec .start s = .refused (.rowNotTaken "START") ↔ s.index.val ≠ 0) ∧
    (exec (.discard b) s = .refused (.rowNotTaken "DISCARD") ↔ (s.index.val ≠ 0 ∨ b = 0xDD#8)) ∧
    (exec (.append b) s = .refused (.rowNotTaken "APPEND") ↔ (s.index.val = 0 ∨ s.index.val = 14)) ∧
    (exec (.complete b) s = .refused (.rowNotTaken "COMPLETE") ↔ s.index.val ≠ 14)

/-- The frame of the four byte-step classes: when one gives a next state, every position of the buffer other than the
one it stores at (`slotOf s.index`; DISCARD stores at none) reads as before, the display and the loads are as before
unless the class is COMPLETE, and neither stream, nor the relay's output, nor the environment, nor the agenda
changes. -/
def Obligations.ByteClassFrame : Prop :=
  ∀ (i : Instr) (s t : State), i.grain = .byte → exec i s = .next t →
    (∀ k : Fin 16, k ≠ slotOf s.index → t.readBuffer k = s.readBuffer k) ∧
    ((∃ b, i = .discard b) → t = s) ∧
    ((∀ b, i ≠ .complete b) → t.shown = s.shown ∧ t.loads = s.loads) ∧
    t.cmdIn = s.cmdIn ∧ t.sensorIn = s.sensorIn ∧ t.hostReady = s.hostReady ∧ t.hostOut = s.hostOut ∧
    t.agenda = s.agenda ∧ t.picks = s.picks ∧ t.resets = s.resets

/-- Section 5 of 30_encoding.md (R59): the class of a byte is decided by the index and, only at 0, by the byte; the
four rows cover every index and byte, each by exactly one class; and the class's one-byte encoding is that byte. -/
def Obligations.ClassesCoverEveryByteOnce : Prop :=
  ∀ (i : Index) (b : Byte),
    (classify i b = .start ↔ i.val = 0 ∧ b = 0xDD#8) ∧
    (classify i b = .discard b ↔ i.val = 0 ∧ b ≠ 0xDD#8) ∧
    (classify i b = .append b ↔ 1 ≤ i.val ∧ i.val ≤ 13) ∧
    (classify i b = .complete b ↔ i.val = 14) ∧
    (classify i b).wf = true ∧ (classify i b).takenAt i = true ∧ encode (classify i b) = [b]

/-- Section 4 of 41_frame_synchronizer.md (R79): the step as one function is the four transitions taken together. -/
def Obligations.DecoderStepIsTheFourTransitions : Prop :=
  ∀ (s : State) (b : Byte), exec (classify s.index b) s = .next (decoderStep s b).state

/-! ### The command SPECTRUM -/

/-- Section 1 of 45_command_and_step.md (R113): from idle, SPECTRUM with its right checksum completes for all 13
columns: the 15 bytes of the frame stand in `buffer[0..14]`, `buffer[15]` is as before, index is 0, the composed plane
is loaded once and shown, and nothing else changes. -/
def Obligations.SpectrumFromIdleShowsItsFrame : Prop :=
  ∀ (s : State) (cols : Columns), s.index = 0 →
    ∃ t : State, exec (spectrumOf cols) s = .next t ∧ t.index = 0 ∧
      t.shown = compose cols ∧ t.loads = s.loads ++ [compose cols] ∧
      t.readBuffer 0 = 0xDD#8 ∧ (∀ c : Fin 13, t.readBuffer ⟨1 + c.val, by omega⟩ = cols[c]) ∧
      t.readBuffer 14 = checksumOf cols ∧ t.readBuffer 15 = s.readBuffer 15 ∧
      t.cmdIn = s.cmdIn ∧ t.sensorIn = s.sensorIn ∧ t.hostReady = s.hostReady ∧ t.hostOut = s.hostOut ∧
      t.agenda = s.agenda ∧ t.picks = s.picks ∧ t.resets = s.resets

/-- The note of the table's SPECTRUM row with section 1 of 42_frame_validator.md (R88): from idle, SPECTRUM with any
other checksum completes without effect on the display: no load, the 15 bytes in the buffer, index 0. -/
def Obligations.SpectrumWithWrongChecksumIsDropped : Prop :=
  ∀ (s : State) (cols : Columns) (ck : Byte), s.index = 0 → ck ≠ checksumOf cols →
    ∃ t : State, exec (.spectrum cols ck) s = .next t ∧ t.index = 0 ∧
      t.shown = s.shown ∧ t.loads = s.loads ∧
      t.readBuffer 0 = 0xDD#8 ∧ (∀ c : Fin 13, t.readBuffer ⟨1 + c.val, by omega⟩ = cols[c]) ∧
      t.readBuffer 14 = ck ∧ t.readBuffer 15 = s.readBuffer 15 ∧
      t.cmdIn = s.cmdIn ∧ t.sensorIn = s.sensorIn ∧ t.hostReady = s.hostReady ∧ t.hostOut = s.hostOut ∧
      t.agenda = s.agenda ∧ t.picks = s.picks ∧ t.resets = s.resets

/-- Section 1 of 45_command_and_step.md (R113): at every index, idle or not, SPECTRUM is the 15 byte steps over its
frame: fifteen decoder turns of the machine, with the frame at the front of the command stream, reach what exec of
SPECTRUM gives with the frame consumed; from idle one turn at the grain of a command gives the same. The turn at the
grain of a command is the model's choice (log 1). -/
def Obligations.SpectrumIsItsFifteenByteSteps : Prop :=
  ∀ (s : State) (cols : Columns) (ck : Byte) (rest : List Byte) (ms : List Move),
    s.cmdIn = encode (.spectrum cols ck) ++ rest →
    ∃ t : State, exec (.spectrum cols ck) ((s.setCmdIn rest).setAgenda ms) = .next t ∧
      Host.Core.run Sys2Proof.core 15 (s.setAgenda (List.replicate 15 .decode ++ ms)) = .next t ∧
      (s.index = 0 → step (s.setAgenda (.command :: ms)) = .next t)

/-- Section 5 of 41_frame_synchronizer.md (property 3, R82): from idle a valid frame gives fourteen NeedMoreBytes and
then FrameReady, exactly one load, none in an earlier step, and leaves the synchronizer idle. -/
def Obligations.ValidFrameGivesOneLoad : Prop :=
  ∀ (s : State) (cols : Columns), s.index = 0 →
    (runBytes s (encode (spectrumOf cols))).tags =
      List.replicate 14 .needMoreBytes ++ [.frameReady cols (compose cols)] ∧
    (runBytes s (encode (spectrumOf cols))).loads = [compose cols] ∧
    (runBytes s (encode (spectrumOf cols))).state.index = 0 ∧
    ∀ n, n ≤ 14 → (runBytes s ((encode (spectrumOf cols)).take n)).loads = []

/-! ### Runs over a byte sequence -/

/-- Section 3 of 45_command_and_step.md (R119): a run over a concatenation is the run over the second part from where
the first part leads, with the tags and the loads concatenated. -/
def Obligations.RunDistributes : Prop :=
  ∀ (s : State) (bs cs : List Byte),
    runBytes s (bs ++ cs) =
      ⟨(runBytes (runBytes s bs).state cs).state,
        (runBytes s bs).tags ++ (runBytes (runBytes s bs).state cs).tags,
        (runBytes s bs).loads ++ (runBytes (runBytes s bs).state cs).loads⟩

/-- Section 5 of 41_frame_synchronizer.md (property 2, R81): from idle, bytes without a sentinel change no state, give
Discarded each, and no load. -/
def Obligations.NoiseWhileIdleChangesNothing : Prop :=
  ∀ (s : State) (bs : List Byte), s.index = 0 → SentinelFree bs →
    runBytes s bs = ⟨s, List.replicate bs.length .discarded, []⟩

/-- Section 2 of 10_state.md (R15 c): after a sentinel met while idle and up to 13 more bytes, index is the number of
bytes taken and `buffer[k]` is byte k of them, whatever stood in the buffer. -/
def Obligations.PartialCandidateHoldsItsBytes : Prop :=
  ∀ (s : State) (bs : List Byte), s.index = 0 → bs.length ≤ 13 →
    (runBytes s (0xDD#8 :: bs)).state.index.val = bs.length + 1 ∧
    (∀ (k : Fin 16) (h : k.val < bs.length + 1),
      (runBytes s (0xDD#8 :: bs)).state.readBuffer k = (0xDD#8 :: bs)[k.val]) ∧
    (runBytes s (0xDD#8 :: bs)).loads = []

/-- Section 3 of 70_reset_and_hazards.md (R148, and R84 of 41_frame_synchronizer.md): a sentinel met while idle takes
the 14 bytes that follow as columns and checksum, whatever frames they were cut from: a frame cut short leaves the
synchronizer collecting, the first bytes of what comes next complete the candidate, and it is loaded exactly when the
XOR of its 15 bytes is 0. -/
def Obligations.TruncatedFrameSwallowsWhatFollows : Prop :=
  ∀ (s : State) (pre nxt : List Byte), s.index = 0 → nxt ≠ [] → pre.length + nxt.length = 14 →
    (runBytes s (0xDD#8 :: pre)).state.index.val = pre.length + 1 ∧
    (runBytes s (0xDD#8 :: pre)).loads = [] ∧
    (runBytes s (0xDD#8 :: pre ++ nxt)).state.index = 0 ∧
    (runBytes s (0xDD#8 :: pre ++ nxt)).loads =
      if xorAcc (0xDD#8 :: pre ++ nxt) = 0#8 then
        [compose (Vector.ofFn (fun c : Fin 13 => (pre ++ nxt).getD c.val 0#8))]
      else []

/-- Section 5 of 41_frame_synchronizer.md (property 4, R83): whatever byte completes a candidate, valid or not, a
fresh valid frame after it is decoded: it is the last load, it is shown, and the synchronizer is idle. -/
def Obligations.FrameAfterAnyCompletionDecodes : Prop :=
  ∀ (s : State) (b : Byte) (cols : Columns), s.index.val = 14 →
    (runBytes s (b :: encode (spectrumOf cols))).state.shown = compose cols ∧
    (runBytes s (b :: encode (spectrumOf cols))).loads.getLast? = some (compose cols) ∧
    (runBytes s (b :: encode (spectrumOf cols))).state.index = 0 ∧
    (runBytes s (b :: encode (spectrumOf cols))).tags.getLast? = some (.frameReady cols (compose cols))

/-- Section 3 of 70_reset_and_hazards.md (R149): from every state, 14 bytes without a sentinel lead to idle, with at
most one load, and a valid frame after them is decoded; 13 are not enough for every state. -/
def Obligations.FlushReachesIdle : Prop :=
  (∀ (s : State) (bs : List Byte), bs.length = 14 → SentinelFree bs →
    (runBytes s bs).state.index = 0 ∧ (runBytes s bs).loads.length ≤ 1 ∧
    ∀ cols : Columns,
      (runBytes s (bs ++ encode (spectrumOf cols))).loads = (runBytes s bs).loads ++ [compose cols] ∧
      (runBytes s (bs ++ encode (spectrumOf cols))).state.shown = compose cols) ∧
  ∃ s : State, (runBytes s (List.replicate 13 0#8)).state.index ≠ 0

/-- Section 3 of 45_command_and_step.md (R119): from idle, a concatenation of valid commands and sentinel-free bytes
yields one load for each command, in order, and ends idle. -/
def Obligations.CleanStreamShowsEveryCommand : Prop :=
  ∀ (s : State) (p : List Line), s.index = 0 → (∀ l ∈ p, cleanLine l = true) →
    (runBytes s (assembleProgram p)).loads = p.flatMap planesOf ∧
    (runBytes s (assembleProgram p)).state.index = 0

/-- Section 3 of 45_command_and_step.md (R118): two states with the same index whose buffers agree below it give the
same tags, the same loads and the same index on every byte sequence: no output depends on leftovers in the buffer, on
what is shown, on the sensor stream or on the schedule. From idle nothing of the buffer matters. -/
def Obligations.LoadsDependOnIndexAndBytesAlone : Prop :=
  ∀ (s t : State) (bs : List Byte), s.index = t.index →
    (∀ k : Fin 16, k.val < s.index.val → s.readBuffer k = t.readBuffer k) →
    (runBytes s bs).tags = (runBytes t bs).tags ∧
    (runBytes s bs).loads = (runBytes t bs).loads ∧
    (runBytes s bs).state.index = (runBytes t bs).state.index

/-! ### The Frame Validator -/

/-- R86. The accumulator is the fold over bytes 0..13 from 0x00; bit i of an accumulation is the parity of bit i of
the bytes; and the order of the bytes does not matter. -/
def Obligations.ChecksumIsBitwiseParity : Prop :=
  (∀ f : Frame, accOf f = (List.range 14).foldl (fun acc k => acc ^^^ f[k]!) 0x00#8) ∧
  (∀ (bs : List Byte) (i : Nat), i < 8 →
    (xorAcc bs).getLsbD i = decide (bs.countP (fun b => b.getLsbD i) % 2 = 1)) ∧
  (∀ bs cs : List Byte, bs.Perm cs → xorAcc bs = xorAcc cs)

/-- Section of 42_frame_validator.md on source property 1 (R91): 14 bytes followed by their XOR are accepted, and
followed by any other byte rejected. -/
def Obligations.ValidatorAcceptsOnlyTheXor : Prop :=
  ∀ (p : Vector Byte 14) (k : Byte), validate (p.push (xorAcc p.toList ^^^ k)) = true ↔ k = 0#8

/-- R53. A frame with the sentinel in front is valid exactly when its checksum byte is the XOR of the sentinel and the
13 columns; equivalently, when the XOR of all 15 bytes is 0x00. -/
def Obligations.FrameValidIffChecksumMatches : Prop :=
  ∀ (f : Frame), f[0] = 0xDD#8 →
    (validate f = true ↔
      f[14] = (List.range 13).foldl (fun acc c => acc ^^^ f[1 + c]!) 0xDD#8) ∧
    (validate f = true ↔ xorAcc f.toList = 0x00#8)

/-- Section of 42_frame_validator.md on what the checksum catches (R92): changing any single byte of a valid frame
makes it invalid; changing two bytes by the same XOR goes unnoticed. -/
def Obligations.SingleByteChangeIsCaught : Prop :=
  ∀ (f : Frame), validate f = true →
    (∀ (k : Fin 15) (b : Byte), b ≠ f[k] → validate (f.set k.val b) = false) ∧
    (∀ (j k : Fin 15) (x : Byte), j ≠ k →
      validate ((f.set j.val (f[j] ^^^ x)).set k.val (f[k] ^^^ x)) = true)

/-! ### The Bitmap Compositor -/

/-- Section 3 of 43_bitmap_compositor.md (R102): pixel (r, c) is lit exactly when `r >= 8 - min(cols[c], 8)`. And the
bit it is sent in is the one section 1 of 20_memory.md fixes (R29 to R31): with `p = 13 * r + c`, bit `31 - p % 32` of
word `p / 32` of the composed plane, written out here and not through the functions the compositor writes with. -/
def Obligations.PixelLitIffUnderItsHeight : Prop :=
  ∀ (cols : Columns) (r : Fin 8) (c : Fin 13),
    lit (compose cols) r c = decide (8 - min (cols[c]).toNat 8 ≤ r.val) ∧
    ((compose cols)[(13 * r.val + c.val) / 32]'(by omega)).getLsbD (31 - (13 * r.val + c.val) % 32) =
      decide (8 - min (cols[c]).toNat 8 ≤ r.val)

/-- R32. The bits that correspond to no pixel, p = 104..127, are zero in every composed plane: bits 23..0 of
word 3. -/
def Obligations.UnusedBitsAreZero : Prop :=
  ∀ cols : Columns, (compose cols)[3] &&& 0x00FFFFFF#32 = 0#32 ∧
    ∀ p, 104 ≤ p → p < 128 → planeBit (compose cols) p = false

/-- Section 3 of 43_bitmap_compositor.md (R103): the number of one bits in the four words is the sum of the clamped
heights, between 0 and 104. -/
def Obligations.OneBitsCountTheHeights : Prop :=
  ∀ cols : Columns,
    (List.range 128).countP (fun p => planeBit (compose cols) p) =
      (cols.toList.map (fun v => min v.toNat 8)).sum ∧
    (cols.toList.map (fun v => min v.toNat 8)).sum ≤ 104

/-- Section 3 of 43_bitmap_compositor.md (R104): the order in which columns and heights are visited does not matter,
nor does visiting one twice: setting the bits of any list that holds exactly the pairs (c, h) with
`h < min(cols[c], 8)` gives the composed plane. -/
def Obligations.CompositionIsOrderFree : Prop :=
  ∀ (cols : Columns) (visits : List (Fin 13 × Nat)),
    (∀ c h, (c, h) ∈ visits ↔ h < min (cols[c]).toNat 8) →
    visits.foldl (fun plane v => setBit plane ((7 - v.2) * 13 + v.1.val)) emptyPlane = compose cols

/-- R106. Properties 5 and 6: all columns 0 compose to four zero words; column 0 = 8 alone to the eight bits of the
bar, one per row, all at column 0; 255 in column 0 renders as 8 does; in every column 9 renders as 8 does and 0 lights
nothing. -/
def Obligations.CornerHeightsRender : Prop :=
  compose (Vector.replicate 13 0#8) = #v[0#32, 0#32, 0#32, 0#32] ∧
  compose (barColumns 0 8#8) = #v[0x80040020#32, 0x01000800#32, 0x40020010#32, 0x00000000#32] ∧
  (∀ (r : Fin 8) (c : Fin 13), lit (compose (barColumns 0 8#8)) r c = decide (c = 0)) ∧
  compose (barColumns 0 255#8) = compose (barColumns 0 8#8) ∧
  (∀ (cols : Columns) (c : Fin 13), compose (cols.set c.val 9#8) = compose (cols.set c.val 8#8)) ∧
  (∀ (cols : Columns) (c : Fin 13) (r : Fin 8), lit (compose (cols.set c.val 8#8)) r c = true) ∧
  (∀ (cols : Columns) (c : Fin 13) (r : Fin 8), lit (compose (cols.set c.val 0#8)) r c = false)

/-- Section 3 of 43_bitmap_compositor.md (R105): two frames compose to the same plane exactly when their clamped
heights are the same. -/
def Obligations.ClampedHeightsDecideThePlane : Prop :=
  ∀ cols cols' : Columns,
    compose cols = compose cols' ↔ ∀ c : Fin 13, min (cols[c]).toNat 8 = min (cols'[c]).toNat 8

/-! ### Encoding -/

/-- Decode and encode agree, for every instruction: at every index at which its row is taken (section 5 of
30_encoding.md, R59; for SPECTRUM idle), whatever follows in the stream, decoding the encoding of a well-formed
instruction gives it back and leaves what follows. SPECTRUM comes back with any checksum byte. -/
def Obligations.DecodeOfEncode : Prop :=
  ∀ (i : Instr) (idx : Index) (rest : List Byte), i.takenAt idx = true →
    (i.wf = true ∨ ∃ cols ck, i = .spectrum cols ck) →
    decode i.grain idx (encode i ++ rest) = .ok (i, rest)

/-- Encode and decode agree: what the decoder reads, encoded again, is the bytes it consumed; its row is taken at the
index; and the decoder reads something from every stream that holds a byte. That a turn at the grain of a command
reads one byte where it finds no whole frame is the model's choice (log 1). -/
def Obligations.EncodeOfDecode : Prop :=
  ∀ (g : Grain) (idx : Index) (bs : List Byte),
    (∀ (i : Instr) (rest : List Byte), decode g idx bs = .ok (i, rest) →
      encode i ++ rest = bs ∧ i.takenAt idx = true ∧ (i.grain = .byte → i.wf = true)) ∧
    (bs ≠ [] → ∃ i rest, decode g idx bs = .ok (i, rest))

/-- Words written out from sections 1 and 5 of 30_encoding.md decode to the instructions they stand for. -/
def Obligations.WrittenOutBytesDecode : Prop :=
  decode .byte 0 [0b11011101#8] = .ok (.start, []) ∧
  decode .byte 0 [0b11011100#8] = .ok (.discard 0xDC#8, []) ∧
  decode .byte 7 [0b11011101#8] = .ok (.append 0xDD#8, []) ∧
  decode .byte 14 [0b11011101#8] = .ok (.complete 0xDD#8, []) ∧
  decode .command 0 [0xDD#8, 1#8, 2#8, 3#8, 4#8, 5#8, 6#8, 7#8, 8#8, 9#8, 10#8, 11#8, 12#8, 13#8, 0xDC#8] =
    .ok (.spectrum #v[1#8, 2#8, 3#8, 4#8, 5#8, 6#8, 7#8, 8#8, 9#8, 10#8, 11#8, 12#8, 13#8] 0xDC#8, [])

/-- A table word placed by withFetchWord is run by the very next step: it is exec of the instruction the decoder reads
from the word, at the index the word is read at, with the streams and the agenda as they were. The model's choice
(log 14, 15). -/
def Obligations.PlacedWordRunsNext : Prop :=
  ∀ (s : State) (nbits w : Nat) (i : Instr), decodeTableWord nbits w = some i →
    step (s.withFetchWord nbits w) = exec i (selectIndex s (tableIndex nbits w))

/-- Section 6 of 30_encoding.md (R61, R62): the bytes of the pseudo-instructions, BAR for every column and height, and
of the lines. -/
def Obligations.NotationAssembles : Prop :=
  assemble .clear = [0xDD#8, 0#8, 0#8, 0#8, 0#8, 0#8, 0#8, 0#8, 0#8, 0#8, 0#8, 0#8, 0#8, 0#8, 0xDD#8] ∧
  assemble .full = [0xDD#8, 8#8, 8#8, 8#8, 8#8, 8#8, 8#8, 8#8, 8#8, 8#8, 8#8, 8#8, 8#8, 8#8, 0xD5#8] ∧
  assemble (.bar 0 8#8) = [0xDD#8, 8#8, 0#8, 0#8, 0#8, 0#8, 0#8, 0#8, 0#8, 0#8, 0#8, 0#8, 0#8, 0#8, 0xD5#8] ∧
  assemble .flush = List.replicate 14 0x00#8 ∧
  (∀ cols : Columns, (assemble (.spectrum cols)).length = 15 ∧
    assemble (.spectrum cols) = 0xDD#8 :: cols.toList ++ [cols.toList.foldl (· ^^^ ·) 0xDD#8]) ∧
  (∀ (f : Frame) (b : Byte) (bs : List Byte), assemble (.frame f) = f.toList ∧ assemble (.byte b) = [b] ∧
    assemble (.bytes bs) = bs ∧ assemble (.noise bs) = bs) ∧
  (∀ (c : Fin 13) (h : Byte), assemble (.bar c h) =
    0xDD#8 :: (List.range 13).map (fun k => if k = c.val then h else 0#8) ++ [0xDD#8 ^^^ h])

/-! ### The loop and its two agents -/

/-- A step runs the decoded instruction: at a decoder turn of the agenda, and at a turn the free-running loop gives
the decoder, what the decoder reads at the front of the command stream is executed with its bytes consumed and, from
the agenda, the move taken; where both agents have a byte the free choice gives the turn to the relay or to the
decoder. The agenda and the free choice are the model's (log 2, 3). A turn at the grain of a command, which consumes
the 15 bytes of a frame in one step, is the model's choice (log 1); the step of the spec is one byte. -/
def Obligations.StepRunsTheDecodedInstruction : Prop :=
  ∀ (s : State) (g : Grain) (i : Instr) (rest : List Byte) (ms : List Move),
    decode g s.index s.cmdIn = .ok (i, rest) →
    (s.agenda = moveOf g :: ms → step s = exec i ((s.setAgenda ms).setCmdIn rest)) ∧
    (s.agenda = [] → g = .byte → s.sensorIn = [] → step s = exec i (s.setCmdIn rest)) ∧
    (s.agenda = [] → g = .byte → s.sensorIn ≠ [] →
      step s = if Config.relayFirst s.picks then .next (relayTurn s.countPick)
        else exec i (s.countPick.setCmdIn rest))

/-- 93_implementation_defined.md: "no input and no reachable state lacks a defined outcome": from every state at all
the step answers a next state; the machine neither faults nor refuses. -/
def Obligations.StepAlwaysAnswersNext : Prop :=
  ∀ s : State, ∃ t : State, step s = .next t

/-- 40_byte_relay.md (R66, R68): a relay turn moves exactly the first sensor byte, unmodified, to the host-facing
output and changes nothing else; where no sensor byte waits, or the output cannot take one, the turn passes and the
byte stays. That a turn which is not enabled passes is the model's choice (log 2, 22). -/
def Obligations.RelayTurnMovesOneByte : Prop :=
  ∀ (s : State) (ms : List Move),
    (∀ (b : Byte) (rest : List Byte), s.sensorIn = b :: rest → s.hostReady = true →
      step (s.setAgenda (.relay :: ms)) =
        .next { s with agenda := ms, sensorIn := rest, hostOut := s.hostOut ++ [b] }) ∧
    (s.sensorIn = [] ∨ s.hostReady = false →
      step (s.setAgenda (.relay :: ms)) = .next { s with agenda := ms })

/-- R70. Relay transparency: while the output can take bytes, as many relay turns as sensor bytes wait, in between any
decoder turns, command deliveries and resets, put exactly those bytes, in order, on the host-facing output; nothing
else is written there. -/
def Obligations.RelayIsTransparent : Prop :=
  ∀ (s : State) (ms rest : List Move), s.hostReady = true → (∀ m ∈ ms, isRelayOrCommandTraffic m = true) →
    ms.count .relay = s.sensorIn.length →
    ∃ t : State, Host.Core.run Sys2Proof.core ms.length (s.setAgenda (ms ++ rest)) = .next t ∧
      t.hostOut = s.hostOut ++ s.sensorIn ∧ t.sensorIn = []

/-- Section 5 of 20_memory.md (R42): every interleaving of the two agents' turns gives the same result: the decoder
has run over as many command bytes as it had turns, the relay has written as many sensor bytes as it had turns. -/
def Obligations.InterleavingsAgree : Prop :=
  ∀ (s : State) (ms rest : List Move), s.hostReady = true → (∀ m ∈ ms, isAgentTurn m = true) →
    Host.Core.run Sys2Proof.core ms.length (s.setAgenda (ms ++ rest)) =
      .next { (runBytes s (s.cmdIn.take (ms.count .decode))).state with
        cmdIn := s.cmdIn.drop (ms.count .decode)
        sensorIn := s.sensorIn.drop (ms.count .relay)
        hostOut := s.hostOut ++ s.sensorIn.take (ms.count .relay)
        agenda := rest }

/-- Section 4 of 70_reset_and_hazards.md (R157): while the output can take bytes, the free-running loop consumes every
delivered byte, however the free choice between the agents falls; the loads are those of the command bytes in order,
the relayed bytes the sensor bytes in order. The exact number of steps, one for each byte that waits, is the model's
choice (log 3): the source promises no bound. -/
def Obligations.FreeLoopConsumesEverything : Prop :=
  ∀ s : State, s.agenda = [] → s.hostReady = true →
    ∃ t : State, Host.Core.run Sys2Proof.core (s.cmdIn.length + s.sensorIn.length) s = .next t ∧
      Quiescent t ∧ t.hostOut = s.hostOut ++ s.sensorIn ∧
      t.loads = s.loads ++ (runBytes s s.cmdIn).loads ∧
      t.index = (runBytes s s.cmdIn).state.index ∧ t.buffer = (runBytes s s.cmdIn).state.buffer ∧
      t.shown = (runBytes s s.cmdIn).state.shown

/-- Sections 1 and 2 of 41_frame_synchronizer.md (R71, R77): with no byte delivered nothing happens, however long:
the free-running loop leaves the state as it is, at any index. -/
def Obligations.NothingHappensWithoutBytes : Prop :=
  ∀ (s : State) (n : Nat), s.agenda = [] → Quiescent s →
    Host.Core.run Sys2Proof.core n s = .next s

/-- 44_display_sink.md (R108, R110), both ways. First, a step changes the frame shown and the loads only (a) by one
load, then shown, at a decoder's turn that consumes a byte at index 14 equal to the XOR of `buffer[0..13]`, of the plane
composed from `buffer[1..13]`; (b) by one load, then shown, at an idle turn at the grain of a command with a whole valid
frame at the front of the stream, of the plane composed from its columns; (c) by power-on. Second, every decoder's turn
of the form (a) or (b) does load. The turn at the grain of a command (log 1), power-on as a move (log 11), and the
agenda and the loop that give the turns (log 2, 3) are the model's choices. -/
def Obligations.DisplayChangesOnlyByLoadOrPowerOn : Prop :=
  (∀ s t : State, step s = .next t →
    (t.shown = s.shown ∧ t.loads = s.loads) ∨
    (∃ (b : Byte) (rest : List Byte), let plane := compose (Vector.ofFn (fun c : Fin 13 => s.buffer[1 + c.val]))
      (s.agenda = [] ∨ ∃ ms, s.agenda = .decode :: ms ∨ s.agenda = .command :: ms) ∧
      s.index.val = 14 ∧ s.cmdIn = b :: rest ∧ t.cmdIn = rest ∧ xorAcc (s.buffer.toList.take 14) = b ∧
      t.loads = s.loads ++ [plane] ∧ t.shown = plane) ∨
    (∃ (cols : Columns) (rest : List Byte) (ms : List Move), s.agenda = .command :: ms ∧
      s.index = 0 ∧ s.cmdIn = encode (spectrumOf cols) ++ rest ∧ t.cmdIn = rest ∧
      t.loads = s.loads ++ [compose cols] ∧ t.shown = compose cols) ∨
    (∃ ms, s.agenda = .powerOn :: ms ∧ t.shown = #v[0#32, 0#32, 0#32, 0#32] ∧ t.loads = [])) ∧
  (∀ (s : State) (b : Byte) (rest : List Byte),
    ((s.agenda = [] ∧ s.sensorIn = []) ∨ ∃ ms, s.agenda = .decode :: ms ∨ s.agenda = .command :: ms) →
    s.index.val = 14 → s.cmdIn = b :: rest → xorAcc (s.buffer.toList.take 14) = b →
    let plane := compose (Vector.ofFn (fun c : Fin 13 => s.buffer[1 + c.val]))
    ∃ t, step s = .next t ∧ t.index = 0 ∧ t.cmdIn = rest ∧ t.loads = s.loads ++ [plane] ∧ t.shown = plane) ∧
  (∀ (s : State) (cols : Columns) (rest : List Byte) (ms : List Move), s.agenda = .command :: ms →
    s.index = 0 → s.cmdIn = encode (spectrumOf cols) ++ rest →
    ∃ t, step s = .next t ∧ t.index = 0 ∧ t.cmdIn = rest ∧ t.loads = s.loads ++ [compose cols] ∧
      t.shown = compose cols)

/-! ### Reset, power-on, the environment -/

/-- Section 8 of 10_state.md (R26) and section 2 of 70_reset_and_hazards.md (R145, R146): after power-on the
synchronizer is idle, the display shows four zero words, and no byte of either stream is consumed, loaded or relayed.
The buffer's content, the agenda and readiness at power-on are the model's choice (log 2, 5, 8) and not stated. -/
def Obligations.PowerOnStateIsIdleAndDark : Prop :=
  State.reset.index = 0 ∧ State.reset.shown = #v[0#32, 0#32, 0#32, 0#32] ∧
  State.reset.loads = [] ∧ State.reset.hostOut = []

/-- Section 1 of 70_reset_and_hazards.md (R142 to R144): a reset event makes the synchronizer idle and changes nothing
else but the buffer, whose content is then free (log 9) and is not stated here: no load, the display and the streams
as before. Together with a byte, reset wins and that byte is lost (log 19). -/
def Obligations.ResetAbandonsTheCandidate : Prop :=
  ∀ (s : State) (ms : List Move),
    (∃ buf : Buffer, step (s.setAgenda (.reset :: ms)) =
      .next { s with agenda := ms, index := 0, buffer := buf, resets := s.resets + 1 }) ∧
    (∃ buf : Buffer, step (s.setAgenda (.resetWithByte :: ms)) =
      .next { s with agenda := ms, index := 0, buffer := buf, resets := s.resets + 1, cmdIn := s.cmdIn.tail })

/-- Section 1 of 70_reset_and_hazards.md (R142) with vector XV3: after a reset event in any state, whatever the buffer
then holds, the next 15 bytes are decoded if they are a valid frame: one load, shown, idle. -/
def Obligations.FrameAfterResetDecodes : Prop :=
  ∀ (s : State) (cols : Columns) (rest : List Byte) (ms : List Move),
    s.cmdIn = encode (spectrumOf cols) ++ rest →
    ∃ t : State,
      Host.Core.run Sys2Proof.core 16 (s.setAgenda (.reset :: (List.replicate 15 .decode ++ ms))) = .next t ∧
      t.index = 0 ∧ t.shown = compose cols ∧ t.loads = s.loads ++ [compose cols] ∧ t.cmdIn = rest ∧
      t.agenda = ms

/-- Sections 1 and 2 of 70_reset_and_hazards.md (R144, R145): power-on leaves the synchronizer idle and the display at
four zero words, whatever the open all-on frame is (log 12). That it keeps the delivered streams and begins the
observed sequences anew is the model's choice (log 11). -/
def Obligations.PowerOnDarkensTheDisplay : Prop :=
  ∀ (s : State) (ms : List Move), ∃ t : State, step (s.setAgenda (.powerOn :: ms)) = .next t ∧
    t.index = 0 ∧ t.shown = #v[0#32, 0#32, 0#32, 0#32] ∧ t.loads = [] ∧ t.hostOut = [] ∧
    t.cmdIn = s.cmdIn ∧ t.sensorIn = s.sensorIn ∧ t.hostReady = s.hostReady ∧ t.agenda = ms ∧
    t.picks = s.picks

/-- Section 3 of 20_memory.md and section 7 of 10_state.md (R24, R38, R43): a delivered byte goes behind the bytes
already delivered on its own stream and changes nothing else; the output's readiness changes only itself. That
delivery and readiness are moves is the model's choice (log 2, 4, 5). -/
def Obligations.DeliveryKeepsStreamOrder : Prop :=
  ∀ (s : State) (b : Byte) (ready : Bool) (ms : List Move),
    step (s.setAgenda (.deliverCommand b :: ms)) = .next { s with agenda := ms, cmdIn := s.cmdIn ++ [b] } ∧
    step (s.setAgenda (.deliverSensor b :: ms)) = .next { s with agenda := ms, sensorIn := s.sensorIn ++ [b] } ∧
    step (s.setAgenda (.hostReady ready :: ms)) = .next { s with agenda := ms, hostReady := ready }

/-! ### The invariant -/

/-- Every step keeps the invariant: while collecting `buffer[0]` is the sentinel (section 2 of 10_state.md, R15); the
unused bits of every loaded plane and of the one shown are clear (section 1 of 20_memory.md, R32); the display shows
the last load or the initial frame (section 3 of 45_command_and_step.md, R117). -/
def Obligations.StepKeepsInv : Prop :=
  ∀ s t : State, Inv s → step s = .next t → Inv t

/-- The invariant holds after power-on. -/
def Obligations.InvHoldsAtPowerOn : Prop := Inv State.reset
end

