-- ==== Sys2Proof/Laws/State.lean ====
section
/-! SUPPORT. One lemma per field per update of the state, true by rfl, so that no proof unfolds a record update. -/

namespace Sys2Proof.Machine

variable (s : State)

/-! ### State.storeAt -/

@[simp] theorem State.storeAt_index (k : Fin 16) (b : Byte) : (s.storeAt k b).index = s.index := rfl
@[simp] theorem State.storeAt_buffer (k : Fin 16) (b : Byte) : (s.storeAt k b).buffer = s.buffer.set k.val b := rfl
@[simp] theorem State.storeAt_shown (k : Fin 16) (b : Byte) : (s.storeAt k b).shown = s.shown := rfl
@[simp] theorem State.storeAt_cmdIn (k : Fin 16) (b : Byte) : (s.storeAt k b).cmdIn = s.cmdIn := rfl
@[simp] theorem State.storeAt_sensorIn (k : Fin 16) (b : Byte) : (s.storeAt k b).sensorIn = s.sensorIn := rfl
@[simp] theorem State.storeAt_hostReady (k : Fin 16) (b : Byte) : (s.storeAt k b).hostReady = s.hostReady := rfl
@[simp] theorem State.storeAt_hostOut (k : Fin 16) (b : Byte) : (s.storeAt k b).hostOut = s.hostOut := rfl
@[simp] theorem State.storeAt_loads (k : Fin 16) (b : Byte) : (s.storeAt k b).loads = s.loads := rfl
@[simp] theorem State.storeAt_agenda (k : Fin 16) (b : Byte) : (s.storeAt k b).agenda = s.agenda := rfl
@[simp] theorem State.storeAt_picks (k : Fin 16) (b : Byte) : (s.storeAt k b).picks = s.picks := rfl
@[simp] theorem State.storeAt_resets (k : Fin 16) (b : Byte) : (s.storeAt k b).resets = s.resets := rfl

/-! ### State.setIndex -/

@[simp] theorem State.setIndex_index (i : Index) : (s.setIndex i).index = i := rfl
@[simp] theorem State.setIndex_buffer (i : Index) : (s.setIndex i).buffer = s.buffer := rfl
@[simp] theorem State.setIndex_shown (i : Index) : (s.setIndex i).shown = s.shown := rfl
@[simp] theorem State.setIndex_cmdIn (i : Index) : (s.setIndex i).cmdIn = s.cmdIn := rfl
@[simp] theorem State.setIndex_sensorIn (i : Index) : (s.setIndex i).sensorIn = s.sensorIn := rfl
@[simp] theorem State.setIndex_hostReady (i : Index) : (s.setIndex i).hostReady = s.hostReady := rfl
@[simp] theorem State.setIndex_hostOut (i : Index) : (s.setIndex i).hostOut = s.hostOut := rfl
@[simp] theorem State.setIndex_loads (i : Index) : (s.setIndex i).loads = s.loads := rfl
@[simp] theorem State.setIndex_agenda (i : Index) : (s.setIndex i).agenda = s.agenda := rfl
@[simp] theorem State.setIndex_picks (i : Index) : (s.setIndex i).picks = s.picks := rfl
@[simp] theorem State.setIndex_resets (i : Index) : (s.setIndex i).resets = s.resets := rfl

/-! ### State.toIdle -/

@[simp] theorem State.toIdle_index : (s.toIdle).index = 0 := rfl
@[simp] theorem State.toIdle_buffer : (s.toIdle).buffer = s.buffer := rfl
@[simp] theorem State.toIdle_shown : (s.toIdle).shown = s.shown := rfl
@[simp] theorem State.toIdle_cmdIn : (s.toIdle).cmdIn = s.cmdIn := rfl
@[simp] theorem State.toIdle_sensorIn : (s.toIdle).sensorIn = s.sensorIn := rfl
@[simp] theorem State.toIdle_hostReady : (s.toIdle).hostReady = s.hostReady := rfl
@[simp] theorem State.toIdle_hostOut : (s.toIdle).hostOut = s.hostOut := rfl
@[simp] theorem State.toIdle_loads : (s.toIdle).loads = s.loads := rfl
@[simp] theorem State.toIdle_agenda : (s.toIdle).agenda = s.agenda := rfl
@[simp] theorem State.toIdle_picks : (s.toIdle).picks = s.picks := rfl
@[simp] theorem State.toIdle_resets : (s.toIdle).resets = s.resets := rfl

/-! ### State.load -/

@[simp] theorem State.load_index (plane : Bitplane) : (s.load plane).index = s.index := rfl
@[simp] theorem State.load_buffer (plane : Bitplane) : (s.load plane).buffer = s.buffer := rfl
@[simp] theorem State.load_shown (plane : Bitplane) : (s.load plane).shown = plane := rfl
@[simp] theorem State.load_cmdIn (plane : Bitplane) : (s.load plane).cmdIn = s.cmdIn := rfl
@[simp] theorem State.load_sensorIn (plane : Bitplane) : (s.load plane).sensorIn = s.sensorIn := rfl
@[simp] theorem State.load_hostReady (plane : Bitplane) : (s.load plane).hostReady = s.hostReady := rfl
@[simp] theorem State.load_hostOut (plane : Bitplane) : (s.load plane).hostOut = s.hostOut := rfl
@[simp] theorem State.load_loads (plane : Bitplane) : (s.load plane).loads = s.loads ++ [plane] := rfl
@[simp] theorem State.load_agenda (plane : Bitplane) : (s.load plane).agenda = s.agenda := rfl
@[simp] theorem State.load_picks (plane : Bitplane) : (s.load plane).picks = s.picks := rfl
@[simp] theorem State.load_resets (plane : Bitplane) : (s.load plane).resets = s.resets := rfl

/-! ### State.emitRelay -/

@[simp] theorem State.emitRelay_index (b : Byte) : (s.emitRelay b).index = s.index := rfl
@[simp] theorem State.emitRelay_buffer (b : Byte) : (s.emitRelay b).buffer = s.buffer := rfl
@[simp] theorem State.emitRelay_shown (b : Byte) : (s.emitRelay b).shown = s.shown := rfl
@[simp] theorem State.emitRelay_cmdIn (b : Byte) : (s.emitRelay b).cmdIn = s.cmdIn := rfl
@[simp] theorem State.emitRelay_sensorIn (b : Byte) : (s.emitRelay b).sensorIn = s.sensorIn := rfl
@[simp] theorem State.emitRelay_hostReady (b : Byte) : (s.emitRelay b).hostReady = s.hostReady := rfl
@[simp] theorem State.emitRelay_hostOut (b : Byte) : (s.emitRelay b).hostOut = s.hostOut ++ [b] := rfl
@[simp] theorem State.emitRelay_loads (b : Byte) : (s.emitRelay b).loads = s.loads := rfl
@[simp] theorem State.emitRelay_agenda (b : Byte) : (s.emitRelay b).agenda = s.agenda := rfl
@[simp] theorem State.emitRelay_picks (b : Byte) : (s.emitRelay b).picks = s.picks := rfl
@[simp] theorem State.emitRelay_resets (b : Byte) : (s.emitRelay b).resets = s.resets := rfl

/-! ### State.setCmdIn -/

@[simp] theorem State.setCmdIn_index (bs : List Byte) : (s.setCmdIn bs).index = s.index := rfl
@[simp] theorem State.setCmdIn_buffer (bs : List Byte) : (s.setCmdIn bs).buffer = s.buffer := rfl
@[simp] theorem State.setCmdIn_shown (bs : List Byte) : (s.setCmdIn bs).shown = s.shown := rfl
@[simp] theorem State.setCmdIn_cmdIn (bs : List Byte) : (s.setCmdIn bs).cmdIn = bs := rfl
@[simp] theorem State.setCmdIn_sensorIn (bs : List Byte) : (s.setCmdIn bs).sensorIn = s.sensorIn := rfl
@[simp] theorem State.setCmdIn_hostReady (bs : List Byte) : (s.setCmdIn bs).hostReady = s.hostReady := rfl
@[simp] theorem State.setCmdIn_hostOut (bs : List Byte) : (s.setCmdIn bs).hostOut = s.hostOut := rfl
@[simp] theorem State.setCmdIn_loads (bs : List Byte) : (s.setCmdIn bs).loads = s.loads := rfl
@[simp] theorem State.setCmdIn_agenda (bs : List Byte) : (s.setCmdIn bs).agenda = s.agenda := rfl
@[simp] theorem State.setCmdIn_picks (bs : List Byte) : (s.setCmdIn bs).picks = s.picks := rfl
@[simp] theorem State.setCmdIn_resets (bs : List Byte) : (s.setCmdIn bs).resets = s.resets := rfl

/-! ### State.setSensorIn -/

@[simp] theorem State.setSensorIn_index (bs : List Byte) : (s.setSensorIn bs).index = s.index := rfl
@[simp] theorem State.setSensorIn_buffer (bs : List Byte) : (s.setSensorIn bs).buffer = s.buffer := rfl
@[simp] theorem State.setSensorIn_shown (bs : List Byte) : (s.setSensorIn bs).shown = s.shown := rfl
@[simp] theorem State.setSensorIn_cmdIn (bs : List Byte) : (s.setSensorIn bs).cmdIn = s.cmdIn := rfl
@[simp] theorem State.setSensorIn_sensorIn (bs : List Byte) : (s.setSensorIn bs).sensorIn = bs := rfl
@[simp] theorem State.setSensorIn_hostReady (bs : List Byte) : (s.setSensorIn bs).hostReady = s.hostReady := rfl
@[simp] theorem State.setSensorIn_hostOut (bs : List Byte) : (s.setSensorIn bs).hostOut = s.hostOut := rfl
@[simp] theorem State.setSensorIn_loads (bs : List Byte) : (s.setSensorIn bs).loads = s.loads := rfl
@[simp] theorem State.setSensorIn_agenda (bs : List Byte) : (s.setSensorIn bs).agenda = s.agenda := rfl
@[simp] theorem State.setSensorIn_picks (bs : List Byte) : (s.setSensorIn bs).picks = s.picks := rfl
@[simp] theorem State.setSensorIn_resets (bs : List Byte) : (s.setSensorIn bs).resets = s.resets := rfl

/-! ### State.setHostReady -/

@[simp] theorem State.setHostReady_index (ready : Bool) : (s.setHostReady ready).index = s.index := rfl
@[simp] theorem State.setHostReady_buffer (ready : Bool) : (s.setHostReady ready).buffer = s.buffer := rfl
@[simp] theorem State.setHostReady_shown (ready : Bool) : (s.setHostReady ready).shown = s.shown := rfl
@[simp] theorem State.setHostReady_cmdIn (ready : Bool) : (s.setHostReady ready).cmdIn = s.cmdIn := rfl
@[simp] theorem State.setHostReady_sensorIn (ready : Bool) : (s.setHostReady ready).sensorIn = s.sensorIn := rfl
@[simp] theorem State.setHostReady_hostReady (ready : Bool) : (s.setHostReady ready).hostReady = ready := rfl
@[simp] theorem State.setHostReady_hostOut (ready : Bool) : (s.setHostReady ready).hostOut = s.hostOut := rfl
@[simp] theorem State.setHostReady_loads (ready : Bool) : (s.setHostReady ready).loads = s.loads := rfl
@[simp] theorem State.setHostReady_agenda (ready : Bool) : (s.setHostReady ready).agenda = s.agenda := rfl
@[simp] theorem State.setHostReady_picks (ready : Bool) : (s.setHostReady ready).picks = s.picks := rfl
@[simp] theorem State.setHostReady_resets (ready : Bool) : (s.setHostReady ready).resets = s.resets := rfl

/-! ### State.setAgenda -/

@[simp] theorem State.setAgenda_index (ms : List Move) : (s.setAgenda ms).index = s.index := rfl
@[simp] theorem State.setAgenda_buffer (ms : List Move) : (s.setAgenda ms).buffer = s.buffer := rfl
@[simp] theorem State.setAgenda_shown (ms : List Move) : (s.setAgenda ms).shown = s.shown := rfl
@[simp] theorem State.setAgenda_cmdIn (ms : List Move) : (s.setAgenda ms).cmdIn = s.cmdIn := rfl
@[simp] theorem State.setAgenda_sensorIn (ms : List Move) : (s.setAgenda ms).sensorIn = s.sensorIn := rfl
@[simp] theorem State.setAgenda_hostReady (ms : List Move) : (s.setAgenda ms).hostReady = s.hostReady := rfl
@[simp] theorem State.setAgenda_hostOut (ms : List Move) : (s.setAgenda ms).hostOut = s.hostOut := rfl
@[simp] theorem State.setAgenda_loads (ms : List Move) : (s.setAgenda ms).loads = s.loads := rfl
@[simp] theorem State.setAgenda_agenda (ms : List Move) : (s.setAgenda ms).agenda = ms := rfl
@[simp] theorem State.setAgenda_picks (ms : List Move) : (s.setAgenda ms).picks = s.picks := rfl
@[simp] theorem State.setAgenda_resets (ms : List Move) : (s.setAgenda ms).resets = s.resets := rfl

/-! ### State.countPick -/

@[simp] theorem State.countPick_index : (s.countPick).index = s.index := rfl
@[simp] theorem State.countPick_buffer : (s.countPick).buffer = s.buffer := rfl
@[simp] theorem State.countPick_shown : (s.countPick).shown = s.shown := rfl
@[simp] theorem State.countPick_cmdIn : (s.countPick).cmdIn = s.cmdIn := rfl
@[simp] theorem State.countPick_sensorIn : (s.countPick).sensorIn = s.sensorIn := rfl
@[simp] theorem State.countPick_hostReady : (s.countPick).hostReady = s.hostReady := rfl
@[simp] theorem State.countPick_hostOut : (s.countPick).hostOut = s.hostOut := rfl
@[simp] theorem State.countPick_loads : (s.countPick).loads = s.loads := rfl
@[simp] theorem State.countPick_agenda : (s.countPick).agenda = s.agenda := rfl
@[simp] theorem State.countPick_picks : (s.countPick).picks = s.picks + 1 := rfl
@[simp] theorem State.countPick_resets : (s.countPick).resets = s.resets := rfl

/-! ### resetEvent -/

@[simp] theorem resetEvent_index : (resetEvent s).index = 0 := rfl
@[simp] theorem resetEvent_buffer : (resetEvent s).buffer = Config.bufferAfterReset s.resets s.buffer := rfl
@[simp] theorem resetEvent_shown : (resetEvent s).shown = s.shown := rfl
@[simp] theorem resetEvent_cmdIn : (resetEvent s).cmdIn = s.cmdIn := rfl
@[simp] theorem resetEvent_sensorIn : (resetEvent s).sensorIn = s.sensorIn := rfl
@[simp] theorem resetEvent_hostReady : (resetEvent s).hostReady = s.hostReady := rfl
@[simp] theorem resetEvent_hostOut : (resetEvent s).hostOut = s.hostOut := rfl
@[simp] theorem resetEvent_loads : (resetEvent s).loads = s.loads := rfl
@[simp] theorem resetEvent_agenda : (resetEvent s).agenda = s.agenda := rfl
@[simp] theorem resetEvent_picks : (resetEvent s).picks = s.picks := rfl
@[simp] theorem resetEvent_resets : (resetEvent s).resets = s.resets + 1 := rfl

/-! ### resetDropping -/

@[simp] theorem resetDropping_index : (resetDropping s).index = 0 := rfl
@[simp] theorem resetDropping_buffer : (resetDropping s).buffer = Config.bufferAfterReset s.resets s.buffer := rfl
@[simp] theorem resetDropping_shown : (resetDropping s).shown = s.shown := rfl
@[simp] theorem resetDropping_cmdIn : (resetDropping s).cmdIn = s.cmdIn.tail := rfl
@[simp] theorem resetDropping_sensorIn : (resetDropping s).sensorIn = s.sensorIn := rfl
@[simp] theorem resetDropping_hostReady : (resetDropping s).hostReady = s.hostReady := rfl
@[simp] theorem resetDropping_hostOut : (resetDropping s).hostOut = s.hostOut := rfl
@[simp] theorem resetDropping_loads : (resetDropping s).loads = s.loads := rfl
@[simp] theorem resetDropping_agenda : (resetDropping s).agenda = s.agenda := rfl
@[simp] theorem resetDropping_picks : (resetDropping s).picks = s.picks := rfl
@[simp] theorem resetDropping_resets : (resetDropping s).resets = s.resets + 1 := rfl

/-! ### powerOn -/

@[simp] theorem powerOn_index : (powerOn s).index = 0 := rfl
@[simp] theorem powerOn_buffer : (powerOn s).buffer = Config.bufferAfterReset s.resets s.buffer := rfl
@[simp] theorem powerOn_shown : (powerOn s).shown = Config.shownInit := rfl
@[simp] theorem powerOn_cmdIn : (powerOn s).cmdIn = s.cmdIn := rfl
@[simp] theorem powerOn_sensorIn : (powerOn s).sensorIn = s.sensorIn := rfl
@[simp] theorem powerOn_hostReady : (powerOn s).hostReady = s.hostReady := rfl
@[simp] theorem powerOn_hostOut : (powerOn s).hostOut = [] := rfl
@[simp] theorem powerOn_loads : (powerOn s).loads = [] := rfl
@[simp] theorem powerOn_agenda : (powerOn s).agenda = s.agenda := rfl
@[simp] theorem powerOn_picks : (powerOn s).picks = s.picks := rfl
@[simp] theorem powerOn_resets : (powerOn s).resets = s.resets + 1 := rfl

end Sys2Proof.Machine
end

