-- ==== Sys2Proof/Laws/Buffer.lean ====
section
/-! SUPPORT. Read-after-store of the buffer, and the operands the validator and the compositor read from it. -/

namespace Sys2Proof.Machine

/-- A store is read back at its own position. -/
@[simp] theorem readBuffer_storeAt_self (s : State) (k : Fin 16) (b : Byte) :
    (s.storeAt k b).readBuffer k = b := by
  simp [State.readBuffer, State.storeAt]

/-- A store leaves every other position alone. -/
theorem readBuffer_storeAt_ne (s : State) {k j : Fin 16} (b : Byte) (h : j ≠ k) :
    (s.storeAt k b).readBuffer j = s.readBuffer j := by
  have hv : k.val ≠ j.val := fun e => h (Fin.ext e.symm)
  simp [State.readBuffer, State.storeAt, hv]

@[simp] theorem slotOf_val (i : Index) : (slotOf i).val = i.val := rfl

/-- Byte k of the candidate is byte k of the buffer (R85). -/
@[simp] theorem candidateOf_getElem (buf : Buffer) (k : Nat) (h : k < 15) :
    (candidateOf buf)[k] = buf[k] := by
  simp [candidateOf]

/-- Column c is byte 1 + c of the buffer (R52). -/
@[simp] theorem columnsOf_getElem (buf : Buffer) (c : Nat) (h : c < 13) :
    (columnsOf buf)[c] = buf[1 + c] := by
  simp [columnsOf]

/-- The checksum byte is no column: storing it leaves the columns as they are. -/
@[simp] theorem columnsOf_set_fourteen (buf : Buffer) (b : Byte) :
    columnsOf (buf.set 14 b) = columnsOf buf := by
  apply Vector.ext
  intro c hc
  rw [columnsOf_getElem, columnsOf_getElem]
  exact Vector.getElem_set_ne (by omega) (by omega) (by omega)

/-- The validator's two operands are equal bytes (R87). -/
theorem validate_iff (f : Frame) : validate f = true ↔ accOf f = f[14] := by
  simp [validate]

/-- A clamped height is at most 8 (R95). -/
theorem clampHeight_le (v : Byte) : clampHeight v ≤ 8 := Nat.min_le_right _ _

/-- Heights 0..8 map to themselves (R95). -/
theorem clampHeight_of_le {v : Byte} (h : v.toNat ≤ 8) : clampHeight v = v.toNat := Nat.min_eq_left h

/-- Heights from 8 up map to 8 (R95). -/
theorem clampHeight_of_ge {v : Byte} (h : 8 ≤ v.toNat) : clampHeight v = 8 := Nat.min_eq_right h

end Sys2Proof.Machine
end

