-- ==== Sys2Proof/Laws/Checksum.lean ====
section
/-! SUPPORT. The accumulated XOR over lists of bytes (R86). -/

namespace Sys2Proof.Machine

/-- The accumulation from any start value is that value folded in. -/
theorem foldl_xor_eq (bs : List Byte) (a : Byte) :
    bs.foldl (fun acc b => acc ^^^ b) a = a ^^^ xorAcc bs := by
  induction bs generalizing a with
  | nil => simp [xorAcc]
  | cons b bs ih =>
    have h : xorAcc (b :: bs) = 0#8 ^^^ b ^^^ xorAcc bs := ih (0#8 ^^^ b)
    rw [List.foldl_cons, ih, h]
    simp [BitVec.xor_assoc]

@[simp] theorem xorAcc_nil : xorAcc [] = 0#8 := rfl

@[simp] theorem xorAcc_cons (b : Byte) (bs : List Byte) : xorAcc (b :: bs) = b ^^^ xorAcc bs := by
  have h : xorAcc (b :: bs) = 0#8 ^^^ b ^^^ xorAcc bs := foldl_xor_eq bs (0#8 ^^^ b)
  simpa using h

@[simp] theorem xorAcc_append (bs cs : List Byte) : xorAcc (bs ++ cs) = xorAcc bs ^^^ xorAcc cs := by
  induction bs with
  | nil => simp
  | cons b bs ih => simp [ih, BitVec.xor_assoc]

end Sys2Proof.Machine
end

