-- ==== Sys2Proof/Laws/Decode.lean ====
section
/-! SUPPORT. What the decoder can answer, said once. -/

namespace Sys2Proof

/-- The four classes with their conditions (R59). -/
theorem classify_cases (i : Index) (b : Byte) :
    (i.val = 0 ∧ b = Config.sentinel ∧ classify i b = .start) ∨
    (i.val = 0 ∧ b ≠ Config.sentinel ∧ classify i b = .discard b) ∨
    (1 ≤ i.val ∧ i.val ≤ 13 ∧ classify i b = .append b) ∨
    (i.val = 14 ∧ classify i b = .complete b) := by
  unfold classify
  by_cases h0 : i.val = 0
  · by_cases hb : b = Config.sentinel <;> simp [h0, hb]
  · by_cases h1 : i.val ≤ 13
    · simp [h0, h1]; omega
    · have := i.isLt
      simp [h0, h1]; omega

/-- A byte is read from every stream that holds one. -/
theorem decodeByte_ok_iff {i : Index} {bs rest : List Byte} {ins : Instr} :
    decodeByte i bs = .ok (ins, rest) ↔ ∃ b, bs = b :: rest ∧ ins = classify i b := by
  cases bs with
  | nil => simp [decodeByte]
  | cons b bs =>
    simp only [decodeByte, Except.ok.injEq, Prod.mk.injEq, List.cons.injEq]
    constructor
    · rintro ⟨rfl, rfl⟩; exact ⟨b, ⟨rfl, rfl⟩, rfl⟩
    · rintro ⟨_, ⟨rfl, rfl⟩, rfl⟩; exact ⟨rfl, rfl⟩

/-- A frame is read exactly while idle, from a stream that begins with the sentinel and holds fourteen bytes more
(R47, R48). -/
theorem decodeFrame_ok_iff {i : Index} {bs rest : List Byte} {ins : Instr} :
    decodeFrame i bs = .ok (ins, rest) ↔ ∃ (tl : List Byte) (h : 14 ≤ tl.length),
      i.val = 0 ∧ bs = Config.sentinel :: tl ∧ rest = tl.drop 14 ∧
      ins = .spectrum (Vector.ofFn (fun c : Fin 13 => tl[c.val]'(by omega))) (tl[13]'(by omega)) := by
  cases bs with
  | nil => simp [decodeFrame]
  | cons b bs =>
    simp only [decodeFrame]
    constructor
    · intro h
      split at h
      · rename_i hi
        split at h
        · rename_i hb
          split at h
          · rename_i hl
            simp only [Except.ok.injEq, Prod.mk.injEq] at h
            exact ⟨bs, hl, hi, by rw [hb], h.2.symm, h.1.symm⟩
          · simp at h
        · simp at h
      · simp at h
    · rintro ⟨tl, hl, hi, hbs, hr, hins⟩
      simp only [List.cons.injEq] at hbs
      obtain ⟨rfl, rfl⟩ := hbs
      rw [if_pos hi, if_pos rfl, dif_pos hl, hr, hins]

/-- The decoder at the grain of a byte. -/
@[simp] theorem decode_byte (i : Index) (bs : List Byte) : decode .byte i bs = decodeByte i bs := rfl

/-- The decoder at the grain of a command reads a frame where there is one, and a byte where there is none. -/
theorem decode_command_cases (i : Index) (bs : List Byte) :
    (∃ r, decodeFrame i bs = .ok r ∧ decode .command i bs = .ok r) ∨
    (∃ e, decodeFrame i bs = .error e ∧ decode .command i bs = decodeByte i bs) := by
  unfold decode
  cases h : decodeFrame i bs with
  | ok r => exact .inl ⟨r, rfl, rfl⟩
  | error e => exact .inr ⟨e, rfl, rfl⟩

end Sys2Proof
end

