-- ==== Sys2Proof/Laws/Meanings.lean ====
section
/-! SUPPORT. When a meaning answers a next state, and which one; the relay's turn; the decoder's turn. -/

namespace Sys2Proof.Machine

/-- START answers a next state exactly while idle (R72). -/
theorem execStart_next_iff {s t : State} :
    execStart s = .next t ↔ s.index.val = 0 ∧ t = (s.storeAt sentinelSlot Config.sentinel).setIndex 1 := by
  unfold execStart
  split <;> simp_all [eq_comm]

/-- DISCARD answers a next state exactly while idle and for another byte than the sentinel (R73). -/
theorem execDiscard_next_iff {s t : State} {b : Byte} :
    execDiscard b s = .next t ↔ (s.index.val = 0 ∧ b ≠ Config.sentinel) ∧ t = s := by
  unfold execDiscard
  split <;> simp_all [eq_comm]

/-- APPEND answers a next state exactly at index 1..13 (R74). -/
theorem execAppend_next_iff {s t : State} {b : Byte} :
    execAppend b s = .next t ↔ ∃ h : 1 ≤ s.index.val ∧ s.index.val ≤ 13,
      t = (s.storeAt (slotOf s.index) b).setIndex ⟨s.index.val + 1, by omega⟩ := by
  unfold execAppend
  split <;> simp_all [eq_comm]

/-- COMPLETE answers a next state exactly at index 14 (R75). -/
theorem execComplete_next_iff {s t : State} {b : Byte} :
    execComplete b s = .next t ↔ s.index.val = 14 ∧
      ((validate (candidateOf (s.storeAt cksumSlot b).buffer) = true ∧
          t = ((s.storeAt cksumSlot b).load (compose (columnsOf (s.storeAt cksumSlot b).buffer))).toIdle) ∨
        (validate (candidateOf (s.storeAt cksumSlot b).buffer) = false ∧ t = (s.storeAt cksumSlot b).toIdle)) := by
  unfold execComplete
  by_cases h : s.index.val = 14
  · rw [if_pos h]
    dsimp only
    cases hv : validate (candidateOf (s.storeAt cksumSlot b).buffer) <;>
      simp only [h, if_true, if_false, true_and, false_and, or_false, false_or, reduceCtorEq,
        Host.Outcome.next.injEq, eq_comm (a := t)]
  · simp [h]

/-- SPECTRUM answers a next state always: its bytes are consumed (R113). -/
theorem execSpectrum_next_iff {s t : State} {cols : Columns} {checksum : Byte} :
    execSpectrum cols checksum s = .next t ↔ t = (runBytes s (encode (.spectrum cols checksum))).state := by
  simp [execSpectrum, eq_comm]

/-- The relay's turn moves the first sensor byte where the step is enabled, and does nothing where it is not
(R66, R68). -/
theorem relayTurn_cases (s : State) :
    (relayEnabled s = false ∧ relayTurn s = s) ∨
    (∃ b rest, s.sensorIn = b :: rest ∧ s.hostReady = true ∧ relayTurn s = (s.emitRelay b).setSensorIn rest) := by
  unfold relayTurn relayEnabled
  cases h : s.sensorIn with
  | nil => simp
  | cons b rest => cases hr : s.hostReady <;> simp

/-- The relay's turn touches nothing of the decoder or the display (R67). -/
theorem relayTurn_frame (s : State) :
    (relayTurn s).index = s.index ∧ (relayTurn s).buffer = s.buffer ∧ (relayTurn s).shown = s.shown ∧
    (relayTurn s).cmdIn = s.cmdIn ∧ (relayTurn s).hostReady = s.hostReady ∧ (relayTurn s).loads = s.loads ∧
    (relayTurn s).agenda = s.agenda ∧ (relayTurn s).picks = s.picks ∧ (relayTurn s).resets = s.resets := by
  rcases relayTurn_cases s with ⟨_, e⟩ | ⟨_, _, _, _, e⟩ <;> simp [e]

/-- The decoder's turn executes what the decoder reads, with the bytes consumed. -/
theorem decoderTurn_of_ok {g : Grain} {s : State} {i : Instr} {rest : List Byte}
    (h : decode g s.index s.cmdIn = .ok (i, rest)) : decoderTurn g s = exec i (s.setCmdIn rest) := by
  rw [decoderTurn, h]

/-- The decoder's turn does nothing where the decoder reads nothing. -/
theorem decoderTurn_of_error {g : Grain} {s : State} {e : DecodeReject}
    (h : decode g s.index s.cmdIn = .error e) : decoderTurn g s = .next s := by
  rw [decoderTurn, h]

/-- A byte turn on a stream that holds a byte. -/
theorem decoderTurn_byte_cons {s : State} {b : Byte} {rest : List Byte} (h : s.cmdIn = b :: rest) :
    decoderTurn .byte s = exec (classify s.index b) (s.setCmdIn rest) :=
  decoderTurn_of_ok (by rw [h]; rfl)

/-- A turn on an empty stream (R71). -/
theorem decoderTurn_nil {g : Grain} {s : State} (h : s.cmdIn = []) : decoderTurn g s = .next s := by
  cases g <;> exact decoderTurn_of_error (e := .noByte) (by rw [h]; rfl)

/-- The loop takes the first move of its agenda. -/
theorem loopTurn_cons {s : State} {m : Move} {ms : List Move} (h : s.agenda = m :: ms) :
    loopTurn s = takeMove m (s.setAgenda ms) := by
  rw [loopTurn, h]

/-- The loop runs freely where its agenda is empty. -/
theorem loopTurn_nil {s : State} (h : s.agenda = []) : loopTurn s = freeTurn s := by
  rw [loopTurn, h]

end Sys2Proof.Machine
end

