-- ==== Sys2Proof/Laws/Ops.lean ====
section
/-! SUPPORT. What the decoder step, a run and a reset event can do, said once each. -/

namespace Sys2Proof.Machine

/-! ### The decoder step (R79) -/

/-- START: the sentinel met while idle. -/
theorem decoderStep_start {s : State} {b : Byte} (hi : s.index.val = 0) (hb : b = Config.sentinel) :
    decoderStep s b = ⟨(s.storeAt sentinelSlot b).setIndex 1, .needMoreBytes, none⟩ := by
  rw [decoderStep, if_pos hi, if_pos hb]

/-- DISCARD: any other byte met while idle. -/
theorem decoderStep_discard {s : State} {b : Byte} (hi : s.index.val = 0) (hb : b ≠ Config.sentinel) :
    decoderStep s b = ⟨s, .discarded, none⟩ := by
  rw [decoderStep, if_pos hi, if_neg hb]

/-- APPEND: any byte met at index 1..13. -/
theorem decoderStep_append {s : State} {b : Byte} (h1 : s.index.val ≠ 0) (h : s.index.val + 1 < 15) :
    decoderStep s b =
      ⟨(s.storeAt (slotOf s.index) b).setIndex ⟨s.index.val + 1, h⟩, .needMoreBytes, none⟩ := by
  rw [decoderStep, if_neg h1, dif_pos h]

/-- COMPLETE with a matching checksum. -/
theorem decoderStep_ready {s : State} {b : Byte} (h : s.index.val = 14)
    (hv : validate (candidateOf (s.storeAt (slotOf s.index) b).buffer) = true) :
    decoderStep s b =
      ⟨((s.storeAt (slotOf s.index) b).load (compose (columnsOf (s.storeAt (slotOf s.index) b).buffer))).toIdle,
        .frameReady (columnsOf (s.storeAt (slotOf s.index) b).buffer)
          (compose (columnsOf (s.storeAt (slotOf s.index) b).buffer)),
        some (compose (columnsOf (s.storeAt (slotOf s.index) b).buffer))⟩ := by
  rw [decoderStep, if_neg (by omega), dif_neg (by omega), if_pos hv]

/-- COMPLETE with another checksum. -/
theorem decoderStep_dropped {s : State} {b : Byte} (h : s.index.val = 14)
    (hv : validate (candidateOf (s.storeAt (slotOf s.index) b).buffer) = false) :
    decoderStep s b = ⟨(s.storeAt (slotOf s.index) b).toIdle, .frameDropped, none⟩ := by
  rw [decoderStep, if_neg (by omega), dif_neg (by omega), hv, if_neg Bool.false_ne_true]

/-- Everything a decoder step can do. -/
theorem decoderStep_cases (s : State) (b : Byte) :
    (s.index.val = 0 ∧ b = Config.sentinel ∧
      decoderStep s b = ⟨(s.storeAt sentinelSlot b).setIndex 1, .needMoreBytes, none⟩) ∨
    (s.index.val = 0 ∧ b ≠ Config.sentinel ∧ decoderStep s b = ⟨s, .discarded, none⟩) ∨
    (∃ h : s.index.val + 1 < 15, s.index.val ≠ 0 ∧ decoderStep s b =
      ⟨(s.storeAt (slotOf s.index) b).setIndex ⟨s.index.val + 1, h⟩, .needMoreBytes, none⟩) ∨
    (∃ plane, s.index.val = 14 ∧
      validate (candidateOf (s.storeAt (slotOf s.index) b).buffer) = true ∧
      plane = compose (columnsOf (s.storeAt (slotOf s.index) b).buffer) ∧
      decoderStep s b = ⟨((s.storeAt (slotOf s.index) b).load plane).toIdle,
        .frameReady (columnsOf (s.storeAt (slotOf s.index) b).buffer) plane, some plane⟩) ∨
    (s.index.val = 14 ∧ validate (candidateOf (s.storeAt (slotOf s.index) b).buffer) = false ∧
      decoderStep s b = ⟨(s.storeAt (slotOf s.index) b).toIdle, .frameDropped, none⟩) := by
  by_cases h0 : s.index.val = 0
  · by_cases hb : b = Config.sentinel
    · exact .inl ⟨h0, hb, decoderStep_start h0 hb⟩
    · exact .inr (.inl ⟨h0, hb, decoderStep_discard h0 hb⟩)
  · by_cases h1 : s.index.val + 1 < 15
    · exact .inr (.inr (.inl ⟨h1, h0, decoderStep_append h0 h1⟩))
    · have h14 : s.index.val = 14 := by have := s.index.isLt; omega
      cases hv : validate (candidateOf (s.storeAt (slotOf s.index) b).buffer)
      · exact .inr (.inr (.inr (.inr ⟨h14, rfl, decoderStep_dropped h14 hv⟩)))
      · exact .inr (.inr (.inr (.inl ⟨_, h14, rfl, rfl, decoderStep_ready h14 hv⟩)))

/-- A decoder step touches neither stream, neither agent's environment nor the agenda (R67). -/
theorem decoderStep_frame (s : State) (b : Byte) :
    (decoderStep s b).state.cmdIn = s.cmdIn ∧ (decoderStep s b).state.sensorIn = s.sensorIn ∧
    (decoderStep s b).state.hostReady = s.hostReady ∧ (decoderStep s b).state.hostOut = s.hostOut ∧
    (decoderStep s b).state.agenda = s.agenda ∧ (decoderStep s b).state.picks = s.picks ∧
    (decoderStep s b).state.resets = s.resets := by
  rcases decoderStep_cases s b with ⟨_, _, e⟩ | ⟨_, _, e⟩ | ⟨_, _, e⟩ | ⟨_, _, _, _, e⟩ | ⟨_, _, e⟩ <;> simp [e]

/-- A load shows what it loads and is the last of the loads; a step without a load changes neither (R108, R110). -/
theorem decoderStep_load (s : State) (b : Byte) :
    ((decoderStep s b).load = none ∧ (decoderStep s b).state.shown = s.shown ∧
      (decoderStep s b).state.loads = s.loads) ∨
    (∃ plane, (decoderStep s b).load = some plane ∧ (decoderStep s b).state.shown = plane ∧
      (decoderStep s b).state.loads = s.loads ++ [plane]) := by
  rcases decoderStep_cases s b with ⟨_, _, e⟩ | ⟨_, _, e⟩ | ⟨_, _, e⟩ | ⟨_, _, _, _, e⟩ | ⟨_, _, e⟩ <;> simp [e]

/-- The loads of a step are what it adds to the observed sequence. -/
theorem decoderStep_loads (s : State) (b : Byte) :
    (decoderStep s b).state.loads = s.loads ++ (decoderStep s b).load.toList := by
  rcases decoderStep_load s b with ⟨h, _, e⟩ | ⟨_, h, _, e⟩ <;> simp [h, e]

/-- The decoder's part of s (index, buffer, display, loads) with everything else of t. -/
def State.onto (s t : State) : State :=
  { t with index := s.index, buffer := s.buffer, shown := s.shown, loads := s.loads }

theorem storeAt_onto (s t : State) (k : Fin 16) (b : Byte) : (s.onto t).storeAt k b = (s.storeAt k b).onto t := rfl

theorem setIndex_onto (s t : State) (i : Index) : (s.onto t).setIndex i = (s.setIndex i).onto t := rfl

theorem load_onto (s t : State) (plane : Bitplane) : (s.onto t).load plane = (s.load plane).onto t := rfl

theorem toIdle_onto (s t : State) : (s.onto t).toIdle = s.toIdle.onto t := rfl

theorem onto_index (s t : State) : (s.onto t).index = s.index := rfl

theorem onto_buffer (s t : State) : (s.onto t).buffer = s.buffer := rfl

/-- A decoder step reads and writes the decoder's part alone: it commutes with any change of the rest (R67, R118). -/
theorem decoderStep_onto (s t : State) (b : Byte) :
    decoderStep (s.onto t) b =
      ⟨(decoderStep s b).state.onto t, (decoderStep s b).tag, (decoderStep s b).load⟩ := by
  rcases decoderStep_cases s b with ⟨h0, hb, e⟩ | ⟨h0, hb, e⟩ | ⟨h1, h0, e⟩ | ⟨plane, h, hv, hp, e⟩ | ⟨h, hv, e⟩
  · rw [e, decoderStep_start (s := s.onto t) h0 hb]; rfl
  · rw [e, decoderStep_discard (s := s.onto t) h0 hb]
  · rw [e, decoderStep_append (s := s.onto t) h0 h1]; rfl
  · have h' := decoderStep_ready (s := s.onto t) h
      (by simpa only [onto_index, storeAt_onto, onto_buffer] using hv)
    simp only [onto_index, storeAt_onto, toIdle_onto, load_onto, onto_buffer] at h'
    rw [e, h', hp]
  · have h' := decoderStep_dropped (s := s.onto t) h
      (by simpa only [onto_index, storeAt_onto, onto_buffer] using hv)
    simp only [onto_index, storeAt_onto, toIdle_onto] at h'
    rw [e, h']

/-- The rest of the state after a decoder step is the rest of the state before it. -/
theorem decoderStep_state_onto (s : State) (b : Byte) : (decoderStep s b).state.onto s = (decoderStep s b).state := by
  obtain ⟨h1, h2, h3, h4, h5, h6, h7⟩ := decoderStep_frame s b
  apply State.ext <;> simp [State.onto, h1, h2, h3, h4, h5, h6, h7]

/-- A step commutes with a change of the command stream. -/
theorem decoderStep_setCmdIn (s : State) (bs : List Byte) (b : Byte) :
    decoderStep (s.setCmdIn bs) b =
      ⟨(decoderStep s b).state.setCmdIn bs, (decoderStep s b).tag, (decoderStep s b).load⟩ := by
  have h := decoderStep_onto s (s.setCmdIn bs) b
  have e : (decoderStep s b).state.onto (s.setCmdIn bs) = ((decoderStep s b).state.onto s).setCmdIn bs := rfl
  rw [e, decoderStep_state_onto] at h
  exact h

/-- A step commutes with a change of the agenda. -/
theorem decoderStep_setAgenda (s : State) (ms : List Move) (b : Byte) :
    decoderStep (s.setAgenda ms) b =
      ⟨(decoderStep s b).state.setAgenda ms, (decoderStep s b).tag, (decoderStep s b).load⟩ := by
  have h := decoderStep_onto s (s.setAgenda ms) b
  have e : (decoderStep s b).state.onto (s.setAgenda ms) = ((decoderStep s b).state.onto s).setAgenda ms := rfl
  rw [e, decoderStep_state_onto] at h
  exact h

/-! ### Runs (R119) -/

@[simp] theorem runBytes_nil (s : State) : runBytes s [] = ⟨s, [], []⟩ := rfl

theorem runBytes_cons (s : State) (b : Byte) (bs : List Byte) :
    runBytes s (b :: bs) =
      ⟨(runBytes (decoderStep s b).state bs).state,
        (decoderStep s b).tag :: (runBytes (decoderStep s b).state bs).tags,
        (decoderStep s b).load.toList ++ (runBytes (decoderStep s b).state bs).loads⟩ := rfl

/-- A run touches neither stream, neither agent's environment nor the agenda. -/
theorem runBytes_frame (s : State) (bs : List Byte) :
    (runBytes s bs).state.cmdIn = s.cmdIn ∧ (runBytes s bs).state.sensorIn = s.sensorIn ∧
    (runBytes s bs).state.hostReady = s.hostReady ∧ (runBytes s bs).state.hostOut = s.hostOut ∧
    (runBytes s bs).state.agenda = s.agenda ∧ (runBytes s bs).state.picks = s.picks ∧
    (runBytes s bs).state.resets = s.resets := by
  induction bs generalizing s with
  | nil => simp
  | cons b bs ih =>
    obtain ⟨h1, h2, h3, h4, h5, h6, h7⟩ := decoderStep_frame s b
    obtain ⟨g1, g2, g3, g4, g5, g6, g7⟩ := ih (decoderStep s b).state
    rw [runBytes_cons]
    exact ⟨g1.trans h1, g2.trans h2, g3.trans h3, g4.trans h4, g5.trans h5, g6.trans h6, g7.trans h7⟩

/-- A run gives one tag for each byte. -/
theorem runBytes_tags_length (s : State) (bs : List Byte) : (runBytes s bs).tags.length = bs.length := by
  induction bs generalizing s with
  | nil => rfl
  | cons b bs ih => simp [runBytes_cons, ih]

/-- The loads of a run are what it adds to the observed sequence (R117 a). -/
theorem runBytes_loads (s : State) (bs : List Byte) :
    (runBytes s bs).state.loads = s.loads ++ (runBytes s bs).loads := by
  induction bs generalizing s with
  | nil => simp
  | cons b bs ih => simp [runBytes_cons, ih, decoderStep_loads]

/-- A run reads and writes the decoder's part alone: it commutes with any change of the rest (R67, R118). -/
theorem runBytes_onto (s t : State) (bs : List Byte) :
    runBytes (s.onto t) bs =
      ⟨(runBytes s bs).state.onto t, (runBytes s bs).tags, (runBytes s bs).loads⟩ := by
  induction bs generalizing s with
  | nil => rfl
  | cons b bs ih => simp [runBytes_cons, decoderStep_onto, ih]

/-- A run commutes with a change of the command stream. -/
theorem runBytes_setCmdIn (s : State) (cs : List Byte) (bs : List Byte) :
    runBytes (s.setCmdIn cs) bs =
      ⟨(runBytes s bs).state.setCmdIn cs, (runBytes s bs).tags, (runBytes s bs).loads⟩ := by
  induction bs generalizing s with
  | nil => rfl
  | cons b bs ih => simp [runBytes_cons, decoderStep_setCmdIn, ih]

/-- A run commutes with a change of the agenda. -/
theorem runBytes_setAgenda (s : State) (ms : List Move) (bs : List Byte) :
    runBytes (s.setAgenda ms) bs =
      ⟨(runBytes s bs).state.setAgenda ms, (runBytes s bs).tags, (runBytes s bs).loads⟩ := by
  induction bs generalizing s with
  | nil => rfl
  | cons b bs ih => simp [runBytes_cons, decoderStep_setAgenda, ih]

end Sys2Proof.Machine
end

