-- ==== Sys2Proof/Laws/Loop.lean ====
section
/-! SUPPORT. The step of the machine, move by move, and runs of it. -/

namespace Sys2Proof.Machine

/-- A step takes the first move of the agenda. -/
theorem step_move (s : State) (m : Move) (ms : List Move) :
    step (s.setAgenda (m :: ms)) = takeMove m (s.setAgenda ms) :=
  loopTurn_cons (s := s.setAgenda (m :: ms)) rfl

/-- A run of n + 1 steps whose first step answers a next state is the run of n steps from there. -/
theorem host_run_succ (M : Host.Core) {s t : M.State} (n : Nat) (h : M.step s = .next t) :
    M.run (n + 1) s = M.run n t := by
  simp [Host.Core.run, h]

/-- The same of this machine. -/
theorem core_run_succ {s t : State} (n : Nat) (h : step s = .next t) :
    Host.Core.run Sys2Proof.core (n + 1) s = Host.Core.run Sys2Proof.core n t :=
  host_run_succ Sys2Proof.core n h

/-- What a step can be: nothing to do, a turn of an agent, or an event of the environment. -/
theorem step_cases (s : State) :
    (s.agenda = [] ∧ step s = freeTurn s) ∨
    (∃ m ms, s.agenda = m :: ms ∧ step s = takeMove m (s.setAgenda ms)) := by
  cases h : s.agenda with
  | nil => exact .inl ⟨rfl, loopTurn_nil h⟩
  | cons m ms => exact .inr ⟨m, ms, rfl, loopTurn_cons h⟩

/-- What the free-running loop can do: pass, or give one of the agents its turn. -/
theorem freeTurn_cases (s : State) :
    freeTurn s = decoderTurn .byte s ∨ freeTurn s = .next (relayTurn s) ∨
    freeTurn s = .next (relayTurn s.countPick) ∨ freeTurn s = decoderTurn .byte s.countPick := by
  unfold freeTurn
  split
  · exact .inl rfl
  · exact .inr (.inl rfl)
  · split
    · exact .inr (.inr (.inl rfl))
    · exact .inr (.inr (.inr rfl))

end Sys2Proof.Machine
end

