-- ==== Sys2Proof/Laws/PerInstr.lean ====
section
/-! SUPPORT. Statements for all instructions, made per constructor. -/

namespace Sys2Proof.Laws

/-- An encoding has as many bytes as its row says: 15 for the command, one for a byte-step class (R55, R59). -/
def EncodeSize.Statement (i : Instr) : Prop := (encode i).length = i.size

theorem EncodeSize.spectrum (cols : Columns) (checksum : Byte) :
    EncodeSize.Statement (.spectrum cols checksum) := by
  simp [EncodeSize.Statement, encode, Instr.size]

theorem EncodeSize.start : EncodeSize.Statement .start := rfl

theorem EncodeSize.discard (b : Byte) : EncodeSize.Statement (.discard b) := rfl

theorem EncodeSize.append (b : Byte) : EncodeSize.Statement (.append b) := rfl

theorem EncodeSize.complete (b : Byte) : EncodeSize.Statement (.complete b) := rfl

end Sys2Proof.Laws
end

