-- ==== Sys2Proof/Laws/Plane.lean ====
section
/-! SUPPORT. What setting bits does to a plane, one bit at a time (R98 to R100). -/

namespace Sys2Proof.Machine

/-- The empty plane has no bit set (R94). -/
@[simp] theorem planeBit_emptyPlane (q : Nat) : planeBit emptyPlane q = false := by
  simp [planeBit, emptyPlane]

/-- Two flattened bits with the same word and the same position in it are the same bit (R98). -/
theorem bit_ext {p q : Nat} (hw : wordIndex p = wordIndex q) (hb : bitPos p = bitPos q) : p = q := by
  simp only [wordIndex, bitPos, Config.wordBits] at hw hb
  omega

/-- Setting bit p sets that bit, where the plane has it, and leaves every other bit alone (R99, R100). -/
theorem planeBit_setBit (plane : Bitplane) (p q : Nat) :
    planeBit (setBit plane p) q = (planeBit plane q || (decide (p = q) && decide (q < 128))) := by
  have hwq : wordIndex q < 4 ↔ q < 128 := by simp only [wordIndex, Config.wordBits]; omega
  have hbp : bitPos p < 32 := by simp only [bitPos, Config.wordBits]; omega
  have hbq : bitPos q < 32 := by simp only [bitPos, Config.wordBits]; omega
  unfold setBit
  by_cases hp : wordIndex p < 4
  · rw [dif_pos hp]
    by_cases hq : wordIndex q < 4
    · simp only [planeBit, dif_pos hq, hwq.mp hq, decide_true, Bool.and_true]
      by_cases hw : wordIndex p = wordIndex q
      · simp only [Vector.getElem_set, hw, if_true, BitVec.getLsbD_or]
        by_cases hb : bitPos p = bitPos q
        · have e := bit_ext hw hb
          subst e
          simp [hbp]
        · have hne : p ≠ q := fun e => hb (by rw [e])
          simp only [hne, decide_false, Bool.or_false]
          have h0 : (1#32 <<< bitPos p).getLsbD (bitPos q) = false := by
            rw [BitVec.getLsbD_shiftLeft]
            by_cases hlt : bitPos q < bitPos p
            · simp [hlt]
            · have : bitPos q - bitPos p ≠ 0 := by omega
              simp [this]
          simp [h0]
      · have hne : p ≠ q := fun e => hw (by rw [e])
        simp [hw, hne]
    · have : ¬ q < 128 := fun h => hq (hwq.mpr h)
      simp [planeBit, hq, this]
  · rw [dif_neg hp]
    by_cases hq : wordIndex q < 4
    · have hne : p ≠ q := fun e => hp (by rw [e]; exact hq)
      simp [hne]
    · have : ¬ q < 128 := fun h => hq (hwq.mpr h)
      simp [this]

/-- Setting a list of bits: exactly those of the plane's bits are added. -/
theorem planeBit_foldl_setBit (ps : List Nat) (plane : Bitplane) (q : Nat) :
    planeBit (ps.foldl setBit plane) q = (planeBit plane q || (decide (q ∈ ps) && decide (q < 128))) := by
  induction ps generalizing plane with
  | nil => simp
  | cons p ps ih =>
    rw [List.foldl_cons, ih, planeBit_setBit]
    have hm : decide (q ∈ p :: ps) = (decide (p = q) || decide (q ∈ ps)) := by
      rw [Bool.eq_iff_iff]
      simp only [Bool.or_eq_true, decide_eq_true_eq, List.mem_cons, eq_comm (a := q)]
    rw [hm, Bool.and_or_distrib_right, Bool.or_assoc]

/-- A plane is its 128 bits. -/
theorem plane_ext {a b : Bitplane} (h : ∀ q, q < 128 → planeBit a q = planeBit b q) : a = b := by
  apply Vector.ext
  intro w hw
  apply BitVec.eq_of_getLsbD_eq
  intro j hj
  have hwi : wordIndex (w * 32 + (31 - j)) = w := by simp only [wordIndex, Config.wordBits]; omega
  have hbp : bitPos (w * 32 + (31 - j)) = j := by simp only [bitPos, Config.wordBits]; omega
  have := h (w * 32 + (31 - j)) (by omega)
  simpa [planeBit, hwi, hbp, hw] using this

end Sys2Proof.Machine
end

