-- ==== Sys2Proof/Tests/Slice0.lean ====
section
/-! SUPPORT. Tests: words written out from spec/30_encoding.md, ill-formed terms, small instances of the vectors of
spec/95_test_vectors.md (named in each comment), and a witness that the hypotheses of each statement can be met. -/

namespace Sys2Proof.Tests

open Sys2Proof.Machine

/-- The next state of an outcome. -/
def nextOf : Host.Outcome State Fault Refusal → Option State
  | .next s => some s
  | .fault _ => none
  | .refused _ => none

/-- The instruction read, without the reason where none is. -/
def readOf : Except DecodeReject (Instr × List Byte) → Option (Instr × List Byte)
  | .ok r => some r
  | .error _ => none

/-- A state at an index whose buffer begins with the listed bytes; the rest of the buffer is 0xEE. -/
def stateAt (i : Index) (bs : List Byte) : State :=
  { State.reset with index := i, buffer := Vector.ofFn (fun k : Fin 16 => bs.getD k.val 0xEE#8) }

/-- A state at an index with bytes delivered on the two links. -/
def fed (i : Index) (cmd sensor : List Byte) : State := { stateAt i [0xDD#8] with cmdIn := cmd, sensorIn := sensor }

/-- Sentinel and thirteen zero columns, as SV10 has them. -/
def zeroCandidate : List Byte := 0xDD#8 :: List.replicate 13 0#8

/-- Sentinel, column 0 = DD, twelve zero columns, as SV12 has them. -/
def barCandidate : List Byte := 0xDD#8 :: 0xDD#8 :: List.replicate 12 0#8

/-- The bytes of VV2. -/
def vv2 : List Byte :=
  [0xDD#8, 1#8, 2#8, 3#8, 4#8, 5#8, 6#8, 7#8, 8#8, 9#8, 10#8, 11#8, 12#8, 13#8, 0xDC#8]

/-- The columns of VV2. -/
def cols2 : Columns := #v[1#8, 2#8, 3#8, 4#8, 5#8, 6#8, 7#8, 8#8, 9#8, 10#8, 11#8, 12#8, 13#8]

/-- The plane of CV3. -/
def barPlane : Bitplane := #v[0x80040020#32, 0x01000800#32, 0x40020010#32, 0x00000000#32]

/-! ### Decoding: words written out bit by bit (R48, R51, R59) -/

theorem test_decode_start : readOf (decode .byte 0 [0b11011101#8, 0x7F#8]) = some (.start, [0x7F#8]) := by decide
theorem test_decode_discard : readOf (decode .byte 0 [0b11011100#8]) = some (.discard 0xDC#8, []) := by decide
theorem test_decode_append_first : readOf (decode .byte 1 [0b11011101#8]) = some (.append 0xDD#8, []) := by decide
theorem test_decode_append_last : readOf (decode .byte 13 [0b01011010#8]) = some (.append 0x5A#8, []) := by decide
theorem test_decode_complete : readOf (decode .byte 14 [0b11011101#8]) = some (.complete 0xDD#8, []) := by decide
theorem test_decode_spectrum : readOf (decode .command 0 (vv2 ++ [0x41#8])) =
    some (.spectrum cols2 0xDC#8, [0x41#8]) := by decide
/-- R55: 14 bytes are no frame; the turn reads one byte (log 1). -/
theorem test_decode_short : readOf (decode .command 0 zeroCandidate) = some (.start, List.replicate 13 0#8) := by
  decide
theorem test_reject_no_byte : decode .byte 3 [] = .error .noByte := rfl
theorem test_reject_not_idle : decodeFrame 1 vv2 = .error .notIdle := rfl
theorem test_reject_no_sentinel : decodeFrame 0 [0xDC#8] = .error .noSentinel := rfl
theorem test_reject_short : decodeFrame 0 zeroCandidate = .error .shortFrame := rfl

/-! ### Table words: the rows of spec/opcode_table.json, and where withFetchWord puts them (log 14, 15) -/

theorem test_table_start : decodeTableWord 8 0xDD = some .start := by decide
theorem test_table_discard : decodeTableWord 8 0x41 = some (.discard 0x41#8) := by decide
theorem test_table_append : decodeTableWord 16 0x0041 = some (.append 0x41#8) := by decide
theorem test_table_complete : decodeTableWord 16 0x4041 = some (.complete 0x41#8) := by decide
theorem test_table_spectrum : decodeTableWord 120 0xDD0102030405060708090A0B0C0DDC =
    some (.spectrum cols2 0xDC#8) := by decide
theorem test_table_spectrum_refused : decodeTableWord 120 0xDC0102030405060708090A0B0C0DDC = none := by decide
theorem test_fetch_spectrum : (nextOf (step (State.reset.withFetchWord 120
    0xDDFF00000000000000000000000022))).map (fun t => (t.loads, t.index, t.cmdIn)) = some ([barPlane], 0, []) := by
  decide
theorem test_fetch_append : (nextOf (step (State.reset.withFetchWord 16 0x0041))).map
    (fun t => (t.index, t.readBuffer 0, t.readBuffer 1)) = some (2, 0xDD#8, 0x41#8) := by decide

/-! ### Well-formedness: an ill-formed term for each check (R53, R59, R62) -/

theorem test_wf_spectrum : (Instr.spectrum cols2 0xDC#8).wf = true := by decide
theorem test_illformed_spectrum : (Instr.spectrum cols2 0xDD#8).wf = false := by decide
theorem test_wf_discard : (Instr.discard 0xDE#8).wf = true := by decide
theorem test_illformed_discard : (Instr.discard 0xDD#8).wf = false := by decide
theorem test_wf_noise : (Line.noise [0xDC#8, 0xDE#8]).wf = true := by decide
theorem test_illformed_noise : (Line.noise [0xDC#8, 0xDD#8]).wf = false := by decide

/-! ### One step of each row -/

/-- SV1. -/
theorem test_start : (nextOf (exec .start (stateAt 0 []))).map (fun t => (t.index, t.readBuffer 0, t.readBuffer 1)) =
    some (1, 0xDD#8, 0xEE#8) := by decide
/-- R59: while collecting, 0xDD is no START. -/
theorem test_start_refused : exec .start (stateAt 5 []) = .refused (.rowNotTaken "START") := rfl
/-- SV3. -/
theorem test_discard : nextOf (exec (.discard 0xDC#8) (stateAt 0 [])) = some (stateAt 0 []) := by decide
/-- SV7. -/
theorem test_append_sentinel : (nextOf (exec (.append 0xDD#8) (stateAt 1 [0xDD#8]))).map
    (fun t => (t.index, t.readBuffer 1, t.readBuffer 2)) = some (2, 0xDD#8, 0xEE#8) := by decide
/-- SV9. -/
theorem test_append_last : (nextOf (exec (.append 0x5A#8) (stateAt 13 [0xDD#8]))).map
    (fun t => (t.index, t.readBuffer 13, t.readBuffer 14)) = some (14, 0x5A#8, 0xEE#8) := by decide
/-- SV12. -/
theorem test_complete_valid : (nextOf (exec (.complete 0#8) (stateAt 14 barCandidate))).map
    (fun t => (t.index, t.readBuffer 14, t.shown, t.loads)) = some (0, 0#8, barPlane, [barPlane]) := by decide
/-- SV13. -/
theorem test_complete_dropped : (nextOf (exec (.complete 0xDD#8) (stateAt 14 barCandidate))).map
    (fun t => (t.index, t.readBuffer 14, t.loads)) = some (0, 0xDD#8, []) := by decide
/-- CV13, with the checksum worked out by hand: DD ^ (1 ^ .. ^ 10 = 0B) ^ C8 ^ FF = E1. -/
theorem test_spectrum : (nextOf (exec (.spectrum
      #v[0#8, 1#8, 2#8, 3#8, 4#8, 5#8, 6#8, 7#8, 8#8, 9#8, 10#8, 200#8, 255#8] 0xE1#8) (stateAt 0 []))).map
    (fun t => (t.index, t.loads)) =
      some (0, [#v[0x00F80FC0#32, 0xFE0FF0FF#32, 0x8FFCFFEF#32, 0xFF000000#32]]) := by decide
/-- VV11: one column byte changed. -/
theorem test_spectrum_dropped : (nextOf (exec (.spectrum (cols2.set 12 12#8) 0xDC#8) (stateAt 0 []))).map
    (fun t => (t.index, t.loads, t.readBuffer 13)) = some (0, [], 12#8) := by decide

/-! ### The components -/

/-- VV4. -/
theorem test_checksum : checksumOf (Vector.replicate 13 0xFF#8) = 0x22#8 := by decide
/-- CV15. -/
theorem test_compose_peak : compose #v[1#8, 2#8, 3#8, 4#8, 5#8, 6#8, 7#8, 8#8, 7#8, 6#8, 5#8, 4#8, 3#8] =
    #v[0x01001C01#32, 0xF01FC1FF#32, 0x1FFDFFFF#32, 0xFF000000#32] := by decide
/-- CV6: the last bit used. -/
theorem test_compose_last : compose (barColumns 12 1#8) = #v[0#32, 0#32, 0#32, 0x01000000#32] := by decide
/-- SV16. -/
theorem test_all_sentinels : (runBytes (stateAt 0 []) (List.replicate 15 0xDD#8)).loads = [] := by decide
/-- SV17. -/
theorem test_sentinel_columns : (runBytes (stateAt 0 []) (List.replicate 14 0xDD#8 ++ [0#8])).loads =
    [#v[0xFFFFFFFF#32, 0xFFFFFFFF#32, 0xFFFFFFFF#32, 0xFF000000#32]] := by decide
/-- RV3: 0xDD is not a sentinel on the sensor link. -/
theorem test_relay : nextOf (step { fed 0 [] [0xDD#8, 0x7F#8] with agenda := [.relay] }) =
    some { fed 0 [] [0x7F#8] with hostOut := [0xDD#8] } := by decide
/-- RV5: blocked, not dropped. -/
theorem test_relay_blocked : nextOf (step { fed 0 [] [0xFF#8] with agenda := [.relay], hostReady := false }) =
    some { fed 0 [] [0xFF#8] with hostReady := false } := by decide
/-- XV2: the candidate is abandoned; nothing is loaded. -/
theorem test_reset : (nextOf (step { stateAt 9 [0xDD#8, 1#8] with agenda := [.reset], shown := barPlane })).map
    (fun t => (t.index, t.shown, t.loads)) = some (0, barPlane, []) := by decide
/-- DV3: nothing of the old frame is left. -/
theorem test_load : ({ stateAt 0 [] with shown := barPlane }.load #v[0#32, 0#32, 0#32, 0x01000000#32]).shown =
    #v[0#32, 0#32, 0#32, 0x01000000#32] := by decide
/-- R62: CLEAR, and BAR 0, 8 of program P1. -/
theorem test_assemble : assembleProgram [.clear, .bar 0 8#8] =
    zeroCandidate ++ [0xDD#8] ++ [0xDD#8, 8#8] ++ List.replicate 12 0#8 ++ [0xD5#8] := by decide

/-- CV7: a full bar, column 12. -/
theorem test_compose_column12 : compose (barColumns 12 8#8) =
    #v[0x00080040#32, 0x02001000#32, 0x80040020#32, 0x01000000#32] := by decide

/-! ### Witnesses: each statement's hypotheses can be met, at the edges of each clause -/

theorem witness_StartFromIdle : (stateAt 0 []).index = 0 := by decide

theorem witness_DiscardFromIdle :
    (stateAt 0 []).index = 0 ∧ (0xDC#8 : Byte) ≠ 0xDD#8 ∧ (0xDE#8 : Byte) ≠ 0xDD#8 := by decide

theorem witness_AppendWhileCollecting :
    (1 ≤ (stateAt 1 [0xDD#8]).index.val ∧ (stateAt 1 [0xDD#8]).index.val ≤ 13) ∧
    (1 ≤ (stateAt 13 [0xDD#8]).index.val ∧ (stateAt 13 [0xDD#8]).index.val ≤ 13) := by decide

/-- SV10 and SV11: the one byte accepted, and a neighbour of it. -/
theorem witness_CompleteAtFourteen :
    (stateAt 14 zeroCandidate).index.val = 14 ∧
    xorAcc ((stateAt 14 zeroCandidate).buffer.toList.take 14) = 0xDD#8 ∧
    xorAcc ((stateAt 14 zeroCandidate).buffer.toList.take 14) ≠ 0xDC#8 := by decide

theorem witness_ByteClassFrame :
    (nextOf (exec .start (stateAt 0 []))).isSome ∧ (nextOf (exec (.discard 0#8) (stateAt 0 []))).isSome ∧
    (nextOf (exec (.append 0#8) (stateAt 1 []))).isSome ∧ (nextOf (exec (.append 0#8) (stateAt 13 []))).isSome ∧
    (nextOf (exec (.complete 0#8) (stateAt 14 []))).isSome ∧ (Instr.complete 0#8).grain = .byte := by decide

theorem witness_SpectrumFromIdleShowsItsFrame : (stateAt 0 []).index = 0 := by decide

theorem witness_SpectrumWithWrongChecksumIsDropped :
    (stateAt 0 []).index = 0 ∧ (0xDD#8 : Byte) ≠ checksumOf cols2 := by decide

theorem witness_SpectrumIsItsFifteenByteSteps :
    ((fed 0 (vv2 ++ [0x41#8]) []).cmdIn = encode (.spectrum cols2 0xDC#8) ++ [0x41#8] ∧
      (fed 0 (vv2 ++ [0x41#8]) []).index = 0) ∧
    (fed 14 vv2 []).cmdIn = encode (.spectrum cols2 0xDC#8) ++ [] := by decide

theorem witness_ValidFrameGivesOneLoad : (stateAt 0 []).index = 0 ∧ (14 : Nat) ≤ 14 := by decide

theorem witness_NoiseWhileIdleChangesNothing :
    (stateAt 0 []).index = 0 ∧ SentinelFree [0xDC#8, 0xDE#8, 0x00#8, 0xFF#8] := by decide

theorem witness_PartialCandidateHoldsItsBytes :
    (stateAt 0 []).index = 0 ∧ (List.replicate 13 0xDD#8).length ≤ 13 ∧ ([] : List Byte).length ≤ 13 := by decide

theorem witness_TruncatedFrameSwallowsWhatFollows :
    (stateAt 0 []).index = 0 ∧ [0xDC#8] ≠ ([] : List Byte) ∧
    (vv2.tail.take 13).length + [0xDC#8].length = 14 ∧ ([] : List Byte).length + vv2.tail.length = 14 ∧
    xorAcc vv2 = 0#8 ∧ xorAcc (List.replicate 15 0xDD#8) ≠ 0#8 := by decide

theorem witness_FrameAfterAnyCompletionDecodes : (stateAt 14 zeroCandidate).index.val = 14 := by decide

theorem witness_FlushReachesIdle :
    (List.replicate 14 (0#8 : Byte)).length = 14 ∧ SentinelFree (List.replicate 14 0#8) := by decide

theorem witness_CleanStreamShowsEveryCommand :
    (stateAt 0 []).index = 0 ∧ ∀ l ∈ [Line.noise [0xDC#8], .spectrum cols2, .flush, .bar 12 1#8], cleanLine l = true := by
  decide

theorem witness_LoadsDependOnIndexAndBytesAlone :
    (stateAt 2 [0xDD#8, 1#8, 7#8]).index = (stateAt 2 [0xDD#8, 1#8, 9#8]).index ∧
    (∀ k : Fin 16, k.val < (stateAt 2 [0xDD#8, 1#8, 7#8]).index.val →
      (stateAt 2 [0xDD#8, 1#8, 7#8]).readBuffer k = (stateAt 2 [0xDD#8, 1#8, 9#8]).readBuffer k) ∧
    stateAt 2 [0xDD#8, 1#8, 7#8] ≠ stateAt 2 [0xDD#8, 1#8, 9#8] := by decide

theorem witness_ChecksumIsBitwiseParity : (7 : Nat) < 8 ∧ [1#8, 2#8].Perm [2#8, 1#8] := by decide

theorem witness_FrameValidIffChecksumMatches :
    (candidateOf (stateAt 0 vv2).buffer)[0] = 0xDD#8 ∧ validate (candidateOf (stateAt 0 vv2).buffer) = true := by decide

theorem witness_SingleByteChangeIsCaught :
    validate (candidateOf (stateAt 0 vv2).buffer) = true ∧
    (0xDC#8 : Byte) ≠ (candidateOf (stateAt 0 vv2).buffer)[(0 : Fin 15)] ∧
    (0xDD#8 : Byte) ≠ (candidateOf (stateAt 0 vv2).buffer)[(14 : Fin 15)] ∧ (0 : Fin 15) ≠ 14 := by decide

theorem witness_UnusedBitsAreZero : (104 : Nat) ≤ 104 ∧ 104 < 128 ∧ 104 ≤ 127 ∧ 127 < 128 := by decide

/-- Two units of column 5, one of them visited twice, top first. -/
theorem witness_CompositionIsOrderFree : ∀ c h, (c, h) ∈ [((5 : Fin 13), 1), (5, 0), (5, 1)] ↔
    h < min ((barColumns 5 2#8)[c]).toNat 8 := by
  intro c h
  by_cases hc : c = 5
  · subst hc
    simp [barColumns]
    omega
  · simp [barColumns, hc]

theorem witness_DecodeOfEncode :
    (spectrumOf cols2).takenAt 0 = true ∧ (spectrumOf cols2).wf = true ∧
    Instr.start.takenAt 0 = true ∧ Instr.start.wf = true ∧
    (Instr.discard 0xDC#8).takenAt 0 = true ∧ (Instr.discard 0xDC#8).wf = true ∧
    (Instr.append 0xDD#8).takenAt 1 = true ∧ (Instr.append 0xDD#8).takenAt 13 = true ∧
    (Instr.append 0xDD#8).wf = true ∧ (Instr.complete 0xDD#8).takenAt 14 = true ∧
    (Instr.complete 0xDD#8).wf = true := by decide

theorem witness_EncodeOfDecode :
    decode .byte 14 [0x41#8] = .ok (.complete 0x41#8, []) ∧ (Instr.complete 0x41#8).grain = .byte ∧
    decode .command 0 vv2 = .ok (.spectrum cols2 0xDC#8, []) ∧ decode .command 0 [0xDD#8] = .ok (.start, []) ∧
    [0x41#8] ≠ ([] : List Byte) := ⟨rfl, rfl, rfl, rfl, by decide⟩

theorem witness_PlacedWordRunsNext :
    decodeTableWord 8 0xDD = some .start ∧ decodeTableWord 8 0xDE = some (.discard 0xDE#8) ∧
    decodeTableWord 9 0 = some (.append 0#8) ∧ decodeTableWord 16 0x4000 = some (.complete 0#8) ∧
    (decodeTableWord 17 0xDD0000000000000000000000000000).isSome = true := by decide

/-- The three clauses: a turn of the agenda at either grain, the free-running loop with one and with two agents. -/
theorem witness_StepRunsTheDecodedInstruction :
    readOf (decode .command (fed 0 vv2 []).index (fed 0 vv2 []).cmdIn) = some (.spectrum cols2 0xDC#8, []) ∧
    (((fed 0 vv2 []).setAgenda [.command]).agenda = moveOf .command :: []) ∧
    readOf (decode .byte (fed 14 [1#8] []).index (fed 14 [1#8] []).cmdIn) = some (.complete 1#8, []) ∧
    ((fed 14 [1#8] []).agenda = [] ∧ (fed 14 [1#8] []).sensorIn = []) ∧
    ((fed 14 [1#8] [2#8]).agenda = [] ∧ (fed 14 [1#8] [2#8]).sensorIn ≠ []) := by decide

theorem witness_RelayTurnMovesOneByte :
    ((fed 0 [] [0xDD#8]).sensorIn = 0xDD#8 :: [] ∧ (fed 0 [] [0xDD#8]).hostReady = true) ∧
    (fed 0 [] []).sensorIn = [] ∧ ((fed 0 [] [0xDD#8]).setHostReady false).hostReady = false := by decide

theorem witness_RelayIsTransparent :
    (fed 0 vv2 [0xDD#8, 0x7F#8]).hostReady = true ∧
    (∀ m ∈ [Move.relay, .decode, .reset, .deliverCommand 1#8, .relay, .command], isRelayOrCommandTraffic m = true) ∧
    [Move.relay, .decode, .reset, .deliverCommand 1#8, .relay, .command].count .relay =
      (fed 0 vv2 [0xDD#8, 0x7F#8]).sensorIn.length := by decide

theorem witness_InterleavingsAgree :
    (fed 0 vv2 [0xDD#8]).hostReady = true ∧ ∀ m ∈ [Move.decode, .relay, .decode, .relay], isAgentTurn m = true := by
  decide

theorem witness_FreeLoopConsumesEverything :
    (fed 0 vv2 [0xDD#8, 1#8]).agenda = [] ∧ (fed 0 vv2 [0xDD#8, 1#8]).hostReady = true := by decide

theorem witness_NothingHappensWithoutBytes : (fed 9 [] []).agenda = [] ∧ Quiescent (fed 9 [] []) := by decide

/-- The steps of the first clause: a quiet turn, a load by a byte, a load by a command, a power-on. -/
theorem witness_DisplayChangesOnlyByLoadOrPowerOn :
    step (fed 9 [] []) = .next (fed 9 [] []) ∧
    (nextOf (step { stateAt 14 barCandidate with cmdIn := [0#8] })).map (·.loads) = some [barPlane] ∧
    (nextOf (step ((fed 0 (assemble (.bar 0 8#8)) []).setAgenda [.command]))).map (·.loads) = some [barPlane] ∧
    (nextOf (step ((fed 0 [] []).setAgenda [.powerOn]))).map (·.shown) = some #v[0#32, 0#32, 0#32, 0#32] :=
  ⟨rfl, by decide, by decide, by decide⟩

/-- The hypotheses of the second and the third clause. -/
theorem witness_DisplayChangesOnlyByLoadOrPowerOn_loads :
    ((stateAt 14 barCandidate).agenda = [] ∧ (stateAt 14 barCandidate).sensorIn = [] ∧
      (stateAt 14 barCandidate).index.val = 14 ∧ ((stateAt 14 barCandidate).setCmdIn [0#8]).cmdIn = 0#8 :: [] ∧
      xorAcc ((stateAt 14 barCandidate).buffer.toList.take 14) = 0#8) ∧
    ((fed 0 vv2 []).setAgenda [.command]).agenda = .command :: [] ∧ (fed 0 vv2 []).index = 0 ∧
    (fed 0 vv2 []).cmdIn = encode (spectrumOf cols2) ++ [] := by decide

theorem witness_FrameAfterResetDecodes :
    (fed 9 (vv2 ++ [1#8]) []).cmdIn = encode (spectrumOf cols2) ++ [1#8] := by decide

/-- A step that completes a candidate, from a state at index 14 that meets the invariant. -/
theorem witness_StepKeepsInv :
    Inv { stateAt 14 barCandidate with cmdIn := [0#8] } ∧
    (nextOf (step { stateAt 14 barCandidate with cmdIn := [0#8] })).map (·.shown) = some barPlane :=
  ⟨⟨fun _ => by decide, fun _ h => absurd h List.not_mem_nil, by decide, rfl⟩, by decide⟩

end Sys2Proof.Tests
end

section
/-! PROOFS. The bits of a composed plane (R32, R94 to R101). -/

namespace Sys2Proof.Machine

/-- The bits of a bar are its height units, each at its own row (R96, R97). -/
theorem mem_barBits {c m q : Nat} : q ∈ barBits c m ↔ ∃ h < m, bitIndex (rowOf h) c = q := by
  simp only [barBits, List.mem_map, List.mem_range]

/-- Every height unit of one of the 13 columns is at a pixel, and the pixels are the bits 0 to 103 (R32, R97). -/
theorem bitIndex_rowOf_lt (h : Nat) (c : Fin 13) : bitIndex (rowOf h) c.val < 104 := by
  simp only [bitIndex, rowOf, Config.nrows, Config.ncols]
  omega

/-- Every bit a composition sets, column by column, bottom row first (R101). -/
def litBits (cols : Columns) : List Nat :=
  (List.finRange 13).flatMap (fun c : Fin 13 => barBits c.val (clampHeight cols[c]))

/-- A bit is set by a composition exactly when it is a unit of the clamped bar of some column (R95 to R97). -/
theorem mem_litBits {cols : Columns} {q : Nat} :
    q ∈ litBits cols ↔ ∃ c : Fin 13, ∃ h < clampHeight cols[c], bitIndex (rowOf h) c.val = q := by
  simp only [litBits, List.mem_flatMap, List.mem_finRange, true_and, mem_barBits]

theorem lt_of_mem_litBits {cols : Columns} {q : Nat} (hq : q ∈ litBits cols) : q < 104 := by
  obtain ⟨c, h, -, rfl⟩ := mem_litBits.mp hq
  exact bitIndex_rowOf_lt h c

/-- Drawing the columns one after another is setting all their bits in one pass over the empty plane. -/
theorem compose_eq_foldl_setBit (cols : Columns) : compose cols = (litBits cols).foldl setBit emptyPlane := by
  simp only [compose, drawColumn, litBits, List.foldl_flatMap]

/-- Bit q of a composed plane is one exactly when the composition sets it: no guard of R100 is ever met. -/
theorem planeBit_compose (cols : Columns) (q : Nat) : planeBit (compose cols) q = decide (q ∈ litBits cols) := by
  rw [compose_eq_foldl_setBit, planeBit_foldl_setBit, planeBit_emptyPlane, Bool.false_or]
  by_cases hq : q ∈ litBits cols
  · have hlt : q < 128 := (lt_of_mem_litBits hq).trans (by decide)
    simp [hq, hlt]
  · simp [hq]

/-- No bit from 104 on is set in a composed plane (R32). -/
theorem planeBit_compose_of_ge (cols : Columns) {p : Nat} (hp : 104 ≤ p) : planeBit (compose cols) p = false := by
  have hnot : p ∉ litBits cols := fun hmem => absurd (lt_of_mem_litBits hmem) (Nat.not_lt.mpr hp)
  rw [planeBit_compose, decide_eq_false hnot]

/-- The bits of word 3 are the flattened bits 96 to 127, the most significant first (R98). -/
theorem getLsbD_word3 (plane : Bitplane) {j : Nat} (hj : j < 32) : plane[3].getLsbD j = planeBit plane (127 - j) := by
  have hw : wordIndex (127 - j) = 3 := by simp only [wordIndex, Config.wordBits]; omega
  have hb : bitPos (127 - j) = j := by simp only [bitPos, Config.wordBits]; omega
  simp [planeBit, hw, hb]

/-- The mask of R32 keeps bits 23 to 0. -/
theorem getLsbD_unusedMask (j : Nat) : (0x00FFFFFF#32).getLsbD j = decide (j < 24) := by
  have hmask : 0x00FFFFFF#32 = (BitVec.allOnes 24).setWidth 32 := by decide
  rw [hmask, BitVec.getLsbD_setWidth, BitVec.getLsbD_allOnes, Bool.eq_iff_iff]
  simp only [Bool.and_eq_true, decide_eq_true_eq]
  omega

/-- The two forms of R32 agree: the mask clears word 3 exactly when the flattened bits 104 to 127 are zero. -/
theorem word3_and_unusedMask_eq_zero_iff (plane : Bitplane) :
    plane[3] &&& 0x00FFFFFF#32 = 0#32 ↔ ∀ p, 104 ≤ p → p < 128 → planeBit plane p = false := by
  constructor
  · intro hmask p hge hlt
    have hbit : (plane[3] &&& 0x00FFFFFF#32).getLsbD (127 - p) = false := by rw [hmask, BitVec.getLsbD_zero]
    have hunused : 127 - p < 24 := by omega
    have hp : 127 - (127 - p) = p := by omega
    rwa [BitVec.getLsbD_and, getLsbD_unusedMask, decide_eq_true hunused, Bool.and_true,
      getLsbD_word3 plane (by omega), hp] at hbit
  · intro hzero
    apply BitVec.eq_of_getLsbD_eq
    intro j hj
    rw [BitVec.getLsbD_and, getLsbD_unusedMask, getLsbD_word3 plane hj, BitVec.getLsbD_zero]
    by_cases hunused : j < 24
    · rw [hzero (127 - j) (by omega) (by omega), Bool.false_and]
    · rw [decide_eq_false hunused, Bool.and_false]

/-- Settles O26: the composition sets no bit from 104 on, and the mask on word 3 says the same of the plane. -/
theorem unusedBitsAreZero : Obligations.UnusedBitsAreZero := by
  intro cols
  have hbits : ∀ p, 104 ≤ p → p < 128 → planeBit (compose cols) p = false :=
    fun _ hge _ => planeBit_compose_of_ge cols hge
  exact ⟨(word3_and_unusedMask_eq_zero_iff _).mpr hbits, hbits⟩

end Sys2Proof.Machine
end

section
/-! PROOFS. The two forms of the frame's checksum constraint (R53). -/

namespace Sys2Proof.Machine

/-- The 13 column bytes of a frame, at the offsets R52 gives them. -/
def frameColumns (f : Frame) : List Byte := (List.range 13).map (fun c => f[1 + c]!)

/-- The bytes the validator accumulates are the byte at offset 0 and the columns (R85, R86). -/
theorem take_cksumOff_eq_cons_frameColumns (f : Frame) :
    f.toList.take Config.cksumOff = f[0] :: frameColumns f := by
  apply List.ext_getElem
  · simp [frameColumns, Config.cksumOff]
  · intro k hk _
    have hlt : k < 14 := by simpa [Config.cksumOff] using hk
    cases k with
    | zero => simp
    | succ c =>
      simp [frameColumns, Nat.add_comm 1 c, getElem!_pos f (c + 1) (by omega)]

theorem accOf_eq_xor_frameColumns (f : Frame) : accOf f = f[0] ^^^ xorAcc (frameColumns f) := by
  rw [accOf, take_cksumOff_eq_cons_frameColumns, xorAcc_cons]

/-- Folding the columns one by one into the sentinel, as R53 writes it. -/
theorem foldl_columns_eq (f : Frame) (a : Byte) :
    (List.range 13).foldl (fun acc c => acc ^^^ f[1 + c]!) a = a ^^^ xorAcc (frameColumns f) := by
  rw [← foldl_xor_eq, frameColumns, List.foldl_map]

/-- A frame is what the validator accumulates and then the checksum byte. -/
theorem take_cksumOff_append_checksum (f : Frame) : f.toList.take Config.cksumOff ++ [f[14]] = f.toList := by
  have hlen : Config.cksumOff < f.toList.length := by simp
  have hdrop : f.toList.drop Config.cksumOff = [f[14]] := by
    rw [List.drop_eq_getElem_cons hlen, List.drop_eq_nil_of_le (by simp)]
    simp
  rw [← hdrop, List.take_append_drop]

theorem xorAcc_toList_eq (f : Frame) : xorAcc f.toList = accOf f ^^^ f[14] := by
  rw [← take_cksumOff_append_checksum f, xorAcc_append, ← accOf, xorAcc_cons, xorAcc_nil, BitVec.xor_zero]

/-- Validity without the sentinel: all fifteen bytes cancel (R53). -/
theorem validate_iff_xorAcc_eq_zero (f : Frame) : validate f = true ↔ xorAcc f.toList = 0#8 := by
  rw [validate_iff, xorAcc_toList_eq, BitVec.xor_eq_zero_iff]

/-- Settles O23: the accumulator is the XOR of the sentinel in front and the columns, and it cancels against the
checksum byte exactly when the two are equal. -/
theorem frameValidIffChecksumMatches : Obligations.FrameValidIffChecksumMatches := by
  intro f hsentinel
  refine ⟨?_, validate_iff_xorAcc_eq_zero f⟩
  rw [validate_iff, accOf_eq_xor_frameColumns, foldl_columns_eq, hsentinel]
  exact eq_comm

end Sys2Proof.Machine
end

section
/-! PROOFS. The transitions of the Frame Synchronizer (R72 to R75, R88). -/

namespace Sys2Proof.Machine

/-! ### The meaning of each byte-step class -/

theorem exec_start (s : State) : exec .start s = execStart s := rfl

theorem exec_discard (b : Byte) (s : State) : exec (.discard b) s = execDiscard b s := rfl

theorem exec_append (b : Byte) (s : State) : exec (.append b) s = execAppend b s := rfl

theorem exec_complete (b : Byte) (s : State) : exec (.complete b) s = execComplete b s := rfl

/-! ### The candidate that a checksum byte completes -/

/-- The bytes the validator accumulates are the first 14 of the buffer (R85, R86). -/
theorem candidateOf_take_fourteen (buf : Buffer) :
    (candidateOf buf).toList.take 14 = buf.toList.take 14 := by
  apply List.ext_getElem
  · simp
  · intro k hk _
    have hk14 : k < 14 := by simpa using hk
    simp [candidateOf_getElem buf k (by omega)]

/-- The checksum byte is not among the bytes it is compared with: storing it leaves the accumulated XOR alone. -/
theorem accOf_candidateOf_set_fourteen (buf : Buffer) (b : Byte) :
    accOf (candidateOf (buf.set 14 b)) = xorAcc (buf.toList.take 14) := by
  rw [accOf, candidateOf_take_fourteen, Vector.toList_set, List.take_set_of_le (Nat.le_refl 14)]

/-- A completed candidate is valid exactly when its last byte is the XOR of the 14 bytes before it (R75, R87). -/
theorem validate_storeAt_cksumSlot_iff (s : State) (b : Byte) :
    validate (candidateOf (s.storeAt cksumSlot b).buffer) = true ↔ xorAcc (s.buffer.toList.take 14) = b := by
  have hlast : (candidateOf (s.buffer.set 14 b))[14] = b := by simp
  rw [validate_iff, State.storeAt_buffer, accOf_candidateOf_set_fourteen, hlast]

/-- The columns composed at a completion are those collected before it (R52). -/
theorem columnsOf_storeAt_cksumSlot (s : State) (b : Byte) :
    columnsOf (s.storeAt cksumSlot b).buffer = columnsOf s.buffer :=
  columnsOf_set_fourteen s.buffer b

/-- At index 14 the next free position is the checksum's. -/
theorem slotOf_eq_cksumSlot {i : Index} (hi : i.val = 14) : slotOf i = cksumSlot := Fin.ext hi

/-- The fields a completion with a load changes. The plane is a variable: `rfl` must not unfold a composition. -/
theorem toIdle_load_storeAt_cksumSlot (s : State) (b : Byte) (plane : Bitplane) :
    ((s.storeAt cksumSlot b).load plane).toIdle =
      { s with index := 0, buffer := s.buffer.set 14 b, shown := plane, loads := s.loads ++ [plane] } := rfl

/-! ### COMPLETE at index 14, with the validator's answer as an equation on the stored bytes -/

theorem exec_complete_of_match {s : State} {b : Byte} (hi : s.index.val = 14)
    (hx : xorAcc (s.buffer.toList.take 14) = b) :
    exec (.complete b) s = .next ((s.storeAt cksumSlot b).load (compose (columnsOf s.buffer))).toIdle := by
  have hv := (validate_storeAt_cksumSlot_iff s b).mpr hx
  rw [exec_complete]
  exact execComplete_next_iff.mpr ⟨hi, .inl ⟨hv, by rw [columnsOf_storeAt_cksumSlot]⟩⟩

theorem exec_complete_of_mismatch {s : State} {b : Byte} (hi : s.index.val = 14)
    (hx : xorAcc (s.buffer.toList.take 14) ≠ b) :
    exec (.complete b) s = .next (s.storeAt cksumSlot b).toIdle := by
  have hv := Bool.eq_false_iff.mpr (mt (validate_storeAt_cksumSlot_iff s b).mp hx)
  rw [exec_complete]
  exact execComplete_next_iff.mpr ⟨hi, .inr ⟨hv, rfl⟩⟩

theorem decoderStep_of_match {s : State} {b : Byte} (hi : s.index.val = 14)
    (hx : xorAcc (s.buffer.toList.take 14) = b) :
    decoderStep s b =
      ⟨((s.storeAt cksumSlot b).load (compose (columnsOf s.buffer))).toIdle,
        .frameReady (columnsOf s.buffer) (compose (columnsOf s.buffer)), some (compose (columnsOf s.buffer))⟩ := by
  have hstep := decoderStep_ready (s := s) (b := b) hi
  rw [slotOf_eq_cksumSlot hi, columnsOf_storeAt_cksumSlot] at hstep
  exact hstep ((validate_storeAt_cksumSlot_iff s b).mpr hx)

theorem decoderStep_of_mismatch {s : State} {b : Byte} (hi : s.index.val = 14)
    (hx : xorAcc (s.buffer.toList.take 14) ≠ b) :
    decoderStep s b = ⟨(s.storeAt cksumSlot b).toIdle, .frameDropped, none⟩ := by
  have hstep := decoderStep_dropped (s := s) (b := b) hi
  rw [slotOf_eq_cksumSlot hi] at hstep
  exact hstep (Bool.eq_false_iff.mpr (mt (validate_storeAt_cksumSlot_iff s b).mp hx))

/-! ### The four transitions -/

/-- Settles O4: the validator's answer depends on the 14 bytes stored before and on the byte met, and the columns
are those stored before. -/
theorem completeAtFourteen : Obligations.CompleteAtFourteen := by
  intro s b hi
  constructor
  · intro hx
    rw [exec_complete_of_match hi hx, decoderStep_of_match hi hx, toIdle_load_storeAt_cksumSlot]
    exact ⟨rfl, rfl⟩
  · exact fun hx => ⟨exec_complete_of_mismatch hi hx, decoderStep_of_mismatch hi hx⟩

/-- Settles O1: a byte that leaves idle is not discarded, so it is the sentinel. -/
theorem startFromIdle : Obligations.StartFromIdle := by
  intro s hidle
  have hi : s.index.val = 0 := congrArg Fin.val hidle
  refine ⟨?_, decoderStep_start hi rfl, ?_⟩
  · rw [exec_start]
    exact execStart_next_iff.mpr ⟨hi, rfl⟩
  · intro b hleaves
    by_contra hb
    rw [decoderStep_discard hi hb] at hleaves
    exact hleaves hidle

/-- Settles O2: while idle, both forms of the step answer the state they were given. -/
theorem discardFromIdle : Obligations.DiscardFromIdle := by
  intro s b hidle hb
  have hi : s.index.val = 0 := congrArg Fin.val hidle
  refine ⟨?_, decoderStep_discard hi hb⟩
  rw [exec_discard]
  exact execDiscard_next_iff.mpr ⟨⟨hi, hb⟩, rfl⟩

/-- Settles O3: at index 1..13 a store at the index leaves room for one more byte. -/
theorem appendWhileCollecting : Obligations.AppendWhileCollecting := by
  intro s b hlow hhigh
  have hnonidle : s.index.val ≠ 0 := by omega
  have hroom : s.index.val + 1 < 15 := by omega
  refine ⟨?_, decoderStep_append hnonidle hroom⟩
  rw [exec_append]
  exact execAppend_next_iff.mpr ⟨⟨hlow, hhigh⟩, rfl⟩

end Sys2Proof.Machine
end

section
/-! PROOFS. The accumulated XOR bit by bit (R86). -/

namespace Sys2Proof.Machine

/-- The bytes the validator accumulates, at the offsets the loop of R86 visits. -/
theorem take_cksumOff_eq_map_range (f : Frame) :
    f.toList.take Config.cksumOff = (List.range 14).map (fun k => f[k]!) := by
  apply List.ext_getElem
  · simp [Config.cksumOff]
  · intro k hk _
    have hlt : k < 14 := by simpa [Config.cksumOff] using hk
    simp [getElem!_pos f k (by omega)]

/-- One more byte in front changes the parity of bit i exactly when its own bit i is one. -/
theorem decide_countP_cons_odd (b : Byte) (bs : List Byte) (i : Nat) :
    decide ((b :: bs).countP (fun b => b.getLsbD i) % 2 = 1) =
      (b.getLsbD i ^^ decide (bs.countP (fun b => b.getLsbD i) % 2 = 1)) := by
  rw [List.countP_cons, Bool.eq_iff_iff]
  cases b.getLsbD i
  · simp
  · simp only [if_true, Bool.true_xor, Bool.not_eq_true', decide_eq_true_eq, decide_eq_false_iff_not]
    omega

/-- No carry: a bit of the accumulation is the parity of that bit of the bytes. -/
theorem getLsbD_xorAcc (bs : List Byte) (i : Nat) :
    (xorAcc bs).getLsbD i = decide (bs.countP (fun b => b.getLsbD i) % 2 = 1) := by
  induction bs with
  | nil => simp
  | cons b bs ih => rw [xorAcc_cons, BitVec.getLsbD_xor, ih, decide_countP_cons_odd]

/-- The order of the bytes does not matter: each bit depends only on how many bytes have it set. -/
theorem xorAcc_eq_of_perm {bs cs : List Byte} (hperm : bs.Perm cs) : xorAcc bs = xorAcc cs := by
  apply BitVec.eq_of_getLsbD_eq
  intro i _
  rw [getLsbD_xorAcc, getLsbD_xorAcc, hperm.countP_eq]

/-- Settles O21: the loop of R86 is the model's fold, whose bits are parities, and parities ignore the order. -/
theorem checksumIsBitwiseParity : Obligations.ChecksumIsBitwiseParity := by
  refine ⟨fun f => ?_, fun bs i _ => getLsbD_xorAcc bs i, fun _ _ => xorAcc_eq_of_perm⟩
  rw [accOf, take_cksumOff_eq_map_range, xorAcc, List.foldl_map]

end Sys2Proof.Machine
end

section
/-! PROOFS. A composed plane pixel by pixel: which are lit, and that the clamped heights alone decide it (R102, R105,
R106). -/

namespace Sys2Proof.Machine

/-- Two pixels of the 13 columns with the same flattened index are the same pixel (R97). -/
theorem bitIndex_inj {r r' : Nat} {c c' : Fin 13} : bitIndex r c.val = bitIndex r' c'.val ↔ r = r' ∧ c = c' := by
  simp only [bitIndex, Config.ncols, Fin.ext_iff]
  omega

/-- Rows grow upward from row 7, so a bar of height m ≤ 8 covers the rows from 8 - m on (R96). -/
theorem exists_rowOf_eq_iff {m : Nat} (hm : m ≤ 8) (r : Fin 8) : (∃ h < m, rowOf h = r.val) ↔ 8 - m ≤ r.val := by
  simp only [rowOf, Config.nrows]
  constructor
  · rintro ⟨h, hlt, hrow⟩
    omega
  · intro hge
    exact ⟨7 - r.val, by omega, by omega⟩

/-- A pixel is lit exactly when it is under the clamped height of its column: no other column's bar reaches it. -/
theorem lit_compose (cols : Columns) (r : Fin 8) (c : Fin 13) :
    lit (compose cols) r c = decide (8 - clampHeight cols[c] ≤ r.val) := by
  rw [lit, planeBit_compose, decide_eq_decide, mem_litBits, ← exists_rowOf_eq_iff (clampHeight_le _)]
  constructor
  · rintro ⟨c', h, hlt, hbit⟩
    obtain ⟨hrow, rfl⟩ := bitIndex_inj.mp hbit
    exact ⟨h, hlt, hrow⟩
  · rintro ⟨h, hlt, hrow⟩
    exact ⟨c, h, hlt, bitIndex_inj.mpr ⟨hrow, rfl⟩⟩

/-- A column of 8 or more is lit in every row. -/
theorem lit_compose_of_ge {cols : Columns} {c : Fin 13} (hcol : 8 ≤ (cols[c]).toNat) (r : Fin 8) :
    lit (compose cols) r c = true := by
  rw [lit_compose, clampHeight_of_ge hcol, decide_eq_true_eq]
  exact Nat.zero_le _

/-- A column of 0 is lit in no row. -/
theorem lit_compose_of_zero {cols : Columns} {c : Fin 13} (hcol : cols[c] = 0#8) (r : Fin 8) :
    lit (compose cols) r c = false := by
  rw [lit_compose, hcol, clampHeight_of_le (by decide), decide_eq_false_iff_not]
  exact Nat.not_le.mpr r.isLt

/-- A composition reads a column only through its clamp (R95). -/
theorem compose_eq_of_clampHeight_eq {cols cols' : Columns}
    (hclamp : ∀ c : Fin 13, clampHeight cols[c] = clampHeight cols'[c]) : compose cols = compose cols' := by
  have hbits : litBits cols = litBits cols' := by simp only [litBits, hclamp]
  rw [compose_eq_foldl_setBit, compose_eq_foldl_setBit, hbits]

/-! ### One column written -/

/-- The column just written holds the written byte, and every other column what it held. -/
theorem getElem_set_column (cols : Columns) (c k : Fin 13) (v : Byte) :
    (cols.set c.val v)[k] = if k = c then v else cols[k] := by
  simp only [Fin.getElem_fin, Vector.getElem_set, Fin.ext_iff, eq_comm (a := k.val)]

/-- Writing a column bytes that clamp alike composes alike, whatever the other columns hold. -/
theorem compose_set_congr (cols : Columns) (c : Fin 13) {v w : Byte} (hclamp : clampHeight v = clampHeight w) :
    compose (cols.set c.val v) = compose (cols.set c.val w) := by
  apply compose_eq_of_clampHeight_eq
  intro k
  rw [getElem_set_column, getElem_set_column]
  split
  · exact hclamp
  · rfl

/-- The operands of BAR are the zero columns with one column written (R62). -/
theorem barColumns_eq_set (c : Fin 13) (h : Byte) : barColumns c h = (Vector.replicate 13 0#8).set c.val h := by
  apply Vector.ext
  intro k hk
  simp only [barColumns, Vector.getElem_ofFn, Vector.getElem_set, Vector.getElem_replicate, Fin.ext_iff,
    eq_comm (a := k)]

/-- A full bar lights its own column in every row and no pixel of any other. -/
theorem lit_compose_barColumns_eight (k : Fin 13) (r : Fin 8) (c : Fin 13) :
    lit (compose (barColumns k 8#8)) r c = decide (c = k) := by
  by_cases hck : c = k
  · have hcol : (barColumns k 8#8)[c] = 8#8 := by rw [barColumns_eq_set, getElem_set_column, if_pos hck]
    rw [lit_compose_of_ge (by rw [hcol]; decide), decide_eq_true hck]
  · have hcol : (barColumns k 8#8)[c] = 0#8 := by
      rw [barColumns_eq_set, getElem_set_column, if_neg hck, Fin.getElem_fin, Vector.getElem_replicate]
    rw [lit_compose_of_zero hcol, decide_eq_false hck]

/-- Settles O29: the two planes are evaluated word by word; everything else follows from the clamp, which maps 9 and
255 to 8 (R95), and from a column's lit rows being those under its clamped height. -/
theorem cornerHeightsRender : Obligations.CornerHeightsRender := by
  have hnine : clampHeight 9#8 = clampHeight 8#8 := by decide
  have hmax : clampHeight 255#8 = clampHeight 8#8 := by decide
  refine ⟨by decide, by decide, lit_compose_barColumns_eight 0, ?_, fun cols c => compose_set_congr cols c hnine,
    fun cols c r => ?_, fun cols c r => ?_⟩
  · rw [barColumns_eq_set, barColumns_eq_set]
    exact compose_set_congr _ 0 hmax
  · have hcol : (cols.set c.val 8#8)[c] = 8#8 := by rw [getElem_set_column, if_pos rfl]
    exact lit_compose_of_ge (by rw [hcol]; decide) r
  · have hcol : (cols.set c.val 0#8)[c] = 0#8 := by rw [getElem_set_column, if_pos rfl]
    exact lit_compose_of_zero hcol r

end Sys2Proof.Machine
end

section
/-! PROOFS. The decoder and the encoder undo each other (R47, R59). -/

namespace Sys2Proof

/-! ### The class of a byte -/

theorem classify_idle_sentinel {i : Index} (hi : i.val = 0) : classify i Config.sentinel = .start := by
  rw [classify, if_pos hi, if_pos rfl]

theorem classify_idle_of_ne {i : Index} {b : Byte} (hi : i.val = 0) (hb : b ≠ Config.sentinel) :
    classify i b = .discard b := by
  rw [classify, if_pos hi, if_neg hb]

theorem classify_collecting {i : Index} {b : Byte} (h1 : 1 ≤ i.val) (h13 : i.val ≤ 13) : classify i b = .append b := by
  rw [classify, if_neg (by omega), if_pos h13]

theorem classify_fourteen {i : Index} {b : Byte} (hi : i.val = 14) : classify i b = .complete b := by
  rw [classify, if_neg (by omega), if_neg (by omega)]

/-- The class of a byte is a byte-step class, well formed, taken at the index it was classified at, and one byte
long (R59). -/
theorem classify_spec (i : Index) (b : Byte) :
    (classify i b).grain = .byte ∧ (classify i b).wf = true ∧ (classify i b).takenAt i = true ∧
      encode (classify i b) = [b] := by
  rcases classify_cases i b with ⟨hi, rfl, hc⟩ | ⟨hi, hb, hc⟩ | ⟨h1, h13, hc⟩ | ⟨hi, hc⟩ <;> rw [hc]
  · simp [Instr.grain, Instr.wf, Instr.takenAt, encode, hi]
  · simp [Instr.grain, Instr.wf, Instr.takenAt, encode, hi, hb]
  · simp [Instr.grain, Instr.wf, Instr.takenAt, encode, h1, h13]
  · simp [Instr.grain, Instr.wf, Instr.takenAt, encode, hi]

/-- A well-formed byte-step class is the class of its own byte at every index that takes its row (R59). -/
theorem classify_of_takenAt {ins : Instr} {i : Index} (hgrain : ins.grain = .byte) (htaken : ins.takenAt i = true)
    (hwf : ins.wf = true) : ∃ b, encode ins = [b] ∧ classify i b = ins := by
  cases ins with
  | spectrum cols ck => simp [Instr.grain] at hgrain
  | start => exact ⟨_, rfl, classify_idle_sentinel (by simpa [Instr.takenAt] using htaken)⟩
  | discard b =>
    exact ⟨b, rfl, classify_idle_of_ne (by simpa [Instr.takenAt] using htaken) (by simpa [Instr.wf] using hwf)⟩
  | append b =>
    have hrange : 1 ≤ i.val ∧ i.val ≤ 13 := by simpa [Instr.takenAt] using htaken
    exact ⟨b, rfl, classify_collecting hrange.1 hrange.2⟩
  | complete b => exact ⟨b, rfl, classify_fourteen (by simpa [Instr.takenAt] using htaken)⟩

/-- Settles O7: each iff reads one row of R59 off the four cases, which exclude each other. -/
theorem classesCoverEveryByteOnce : Obligations.ClassesCoverEveryByteOnce := by
  intro i b
  have hsentinel : (0xDD#8 : Byte) = Config.sentinel := rfl
  obtain ⟨-, hspec⟩ := classify_spec i b
  rw [hsentinel]
  rcases classify_cases i b with ⟨hi, hb, hc⟩ | ⟨hi, hb, hc⟩ | ⟨h1, h13, hc⟩ | ⟨hi, hc⟩ <;> rw [hc] at hspec ⊢
  · simp [hi, hb, hspec]
  · simp [hi, hb, hspec]
  · have h0 : i.val ≠ 0 := by omega
    have h14 : i.val ≠ 14 := by omega
    simp [h0, h1, h13, h14, hspec]
  · simp [hi, hspec]

/-! ### Whole frames -/

/-- A frame at the front of the stream of an idle synchronizer is read as the columns and the checksum sent. -/
theorem decodeFrame_encode_spectrum {i : Index} (hi : i.val = 0) (cols : Columns) (ck : Byte) (rest : List Byte) :
    decodeFrame i (encode (.spectrum cols ck) ++ rest) = .ok (.spectrum cols ck, rest) := by
  rw [decodeFrame_ok_iff]
  refine ⟨cols.toList ++ ck :: rest, by simp; omega, hi, by simp [encode], ?_, ?_⟩
  · rw [List.drop_append, List.drop_eq_nil_of_le (by simp)]
    simp
  · congr 1
    · apply Vector.ext
      intro c hc
      simp [List.getElem_append_left]
    · simp

/-- What is read as a frame is the encoding of what was read, met while idle. -/
theorem encode_of_decodeFrame {i : Index} {bs rest : List Byte} {ins : Instr}
    (h : decodeFrame i bs = .ok (ins, rest)) :
    ∃ cols ck, ins = .spectrum cols ck ∧ i.val = 0 ∧ encode ins ++ rest = bs := by
  obtain ⟨tl, hlen, hi, rfl, rfl, rfl⟩ := decodeFrame_ok_iff.mp h
  refine ⟨_, _, rfl, hi, ?_⟩
  have hcols : (Vector.ofFn (fun c : Fin 13 => tl[c.val]'(by omega))).toList = tl.take 13 := by
    apply List.ext_getElem
    · simp; omega
    · intro k _ _
      simp
  have hnext : tl.drop 13 = tl[13] :: tl.drop 14 := List.drop_eq_getElem_cons (by omega)
  rw [encode, hcols, List.cons_append, List.append_assoc, List.singleton_append, ← hnext, List.take_append_drop]

/-! ### Both grains -/

theorem decode_command_of_frame {i : Index} {bs : List Byte} {r : Instr × List Byte} (h : decodeFrame i bs = .ok r) :
    decode .command i bs = .ok r := by
  rw [decode, h]

/-- What either grain can read: a frame, at the grain of a command and while idle, or one byte. -/
theorem decode_ok_cases {g : Grain} {i : Index} {bs rest : List Byte} {ins : Instr}
    (h : decode g i bs = .ok (ins, rest)) :
    (∃ cols ck, g = .command ∧ i.val = 0 ∧ ins = .spectrum cols ck ∧ bs = encode (.spectrum cols ck) ++ rest) ∨
    (∃ b, bs = b :: rest ∧ ins = classify i b) := by
  cases g with
  | byte => exact .inr (decodeByte_ok_iff.mp h)
  | command =>
    rcases decode_command_cases i bs with ⟨r, hframe, hr⟩ | ⟨_, -, hbyte⟩
    · obtain rfl : r = (ins, rest) := Except.ok.inj (hr.symm.trans h)
      obtain ⟨cols, ck, rfl, hi, hbs⟩ := encode_of_decodeFrame hframe
      exact .inl ⟨cols, ck, rfl, hi, rfl, hbs.symm⟩
    · exact .inr (decodeByte_ok_iff.mp (hbyte.symm.trans h))

/-- Settles O31: a byte-step class is the class of its byte at every index that takes its row, and a frame is read
whole while idle. -/
theorem decodeOfEncode : Obligations.DecodeOfEncode := by
  intro ins i rest htaken hwf
  cases hgrain : ins.grain with
  | byte =>
    have hwf : ins.wf = true := by
      rcases hwf with hwf | ⟨cols, ck, rfl⟩
      · exact hwf
      · simp [Instr.grain] at hgrain
    obtain ⟨b, hencode, hclass⟩ := classify_of_takenAt hgrain htaken hwf
    rw [hencode, decode_byte, decodeByte_ok_iff]
    exact ⟨b, rfl, hclass.symm⟩
  | command =>
    cases ins with
    | spectrum cols ck =>
      have hi : i.val = 0 := by simpa [Instr.takenAt] using htaken
      exact decode_command_of_frame (decodeFrame_encode_spectrum hi cols ck rest)
    | start | discard | append | complete => simp [Instr.grain] at hgrain

/-- A stream that holds a byte is read at either grain. -/
theorem exists_decode_ok {bs : List Byte} (g : Grain) (i : Index) (hbs : bs ≠ []) :
    ∃ ins rest, decode g i bs = .ok (ins, rest) := by
  obtain ⟨b, rest, rfl⟩ := List.exists_cons_of_ne_nil hbs
  cases g with
  | byte => exact ⟨_, _, rfl⟩
  | command =>
    rcases decode_command_cases i (b :: rest) with ⟨⟨ins, more⟩, -, hr⟩ | ⟨_, -, hbyte⟩
    · exact ⟨ins, more, hr⟩
    · exact ⟨_, _, hbyte⟩

/-- Settles O32: either grain reads a frame or the class of one byte, and the encoding of each is what it read. -/
theorem encodeOfDecode : Obligations.EncodeOfDecode := by
  refine fun g i bs => ⟨fun ins rest h => ?_, exists_decode_ok g i⟩
  rcases decode_ok_cases h with ⟨cols, ck, -, hi, rfl, hbs⟩ | ⟨b, hbs, rfl⟩
  · exact ⟨hbs.symm, by simp [Instr.takenAt, hi], by simp [Instr.grain]⟩
  · obtain ⟨-, hwf, htaken, hencode⟩ := classify_spec i b
    rw [hencode, hbs]
    exact ⟨rfl, htaken, fun _ => hwf⟩

/-- Settles O33: the decoder evaluated on each of the five streams. -/
theorem writtenOutBytesDecode : Obligations.WrittenOutBytesDecode :=
  ⟨rfl, rfl, rfl, rfl, rfl⟩

end Sys2Proof
end

section
/-! PROOFS. The byte-step classes as meanings: where each refuses, what each leaves unchanged, and that together they
are the decoder step (R59, R72 to R75, R79). -/

namespace Sys2Proof.Machine

/-! ### Where a class refuses (log 13) -/

theorem execStart_refused_iff {s : State} :
    execStart s = .refused (.rowNotTaken "START") ↔ s.index.val ≠ 0 := by
  unfold execStart
  split <;> simp_all

theorem execDiscard_refused_iff {s : State} {b : Byte} :
    execDiscard b s = .refused (.rowNotTaken "DISCARD") ↔ s.index.val ≠ 0 ∨ b = Config.sentinel := by
  unfold execDiscard
  split
  · simp_all
  · rename_i hnot
    simpa only [true_iff, not_and_or, not_not] using hnot

theorem execAppend_refused_iff {s : State} {b : Byte} :
    execAppend b s = .refused (.rowNotTaken "APPEND") ↔ s.index.val = 0 ∨ s.index.val = 14 := by
  have hrange := s.index.isLt
  unfold execAppend
  split
  · simp only [reduceCtorEq, false_iff]
    omega
  · simp only [true_iff]
    omega

theorem execComplete_refused_iff {s : State} {b : Byte} :
    execComplete b s = .refused (.rowNotTaken "COMPLETE") ↔ s.index.val ≠ 14 := by
  by_cases hi : s.index.val = 14
  · cases hv : validate (candidateOf (s.storeAt cksumSlot b).buffer)
    · simp [execComplete_next_iff.mpr ⟨hi, .inr ⟨hv, rfl⟩⟩, hi]
    · simp [execComplete_next_iff.mpr ⟨hi, .inl ⟨hv, rfl⟩⟩, hi]
  · simp [execComplete, hi]

/-- Settles O5: each meaning refuses exactly outside the condition of its own row. -/
theorem rowNotTakenIsRefused : Obligations.RowNotTakenIsRefused :=
  fun _ _ => ⟨execStart_refused_iff, execDiscard_refused_iff, execAppend_refused_iff, execComplete_refused_iff⟩

/-! ### The class of a byte and the decoder step -/

/-- Running the class of a byte is the decoder step on that byte (R79). -/
theorem exec_classify (s : State) (b : Byte) : exec (classify s.index b) s = .next (decoderStep s b).state := by
  rcases classify_cases s.index b with ⟨hi, rfl, hc⟩ | ⟨hi, hb, hc⟩ | ⟨h1, h13, hc⟩ | ⟨hi, hc⟩ <;> rw [hc]
  · rw [exec_start, decoderStep_start hi rfl]
    exact execStart_next_iff.mpr ⟨hi, rfl⟩
  · rw [exec_discard, decoderStep_discard hi hb]
    exact execDiscard_next_iff.mpr ⟨⟨hi, hb⟩, rfl⟩
  · rw [exec_append, decoderStep_append (by omega) (by omega)]
    exact execAppend_next_iff.mpr ⟨⟨h1, h13⟩, rfl⟩
  · by_cases hx : xorAcc (s.buffer.toList.take 14) = b
    · rw [exec_complete_of_match hi hx, decoderStep_of_match hi hx]
    · rw [exec_complete_of_mismatch hi hx, decoderStep_of_mismatch hi hx]

/-- Settles O8: row by row, the meaning of the class is the branch of the step that R59 selects. -/
theorem decoderStepIsTheFourTransitions : Obligations.DecoderStepIsTheFourTransitions := exec_classify

/-! ### The frame of a class -/

/-- A byte-step class that answers a next state is the class of a byte at the index before, so its effect is a
decoder step on that byte. -/
theorem exec_byte_next {ins : Instr} {s t : State} (hgrain : ins.grain = .byte) (hexec : exec ins s = .next t) :
    ∃ b, ins = classify s.index b ∧ t = (decoderStep s b).state := by
  have hclass : ∃ b, ins = classify s.index b := by
    cases ins with
    | spectrum cols ck => simp [Instr.grain] at hgrain
    | start =>
      rw [exec_start, execStart_next_iff] at hexec
      exact ⟨_, (classify_idle_sentinel hexec.1).symm⟩
    | discard b =>
      rw [exec_discard, execDiscard_next_iff] at hexec
      obtain ⟨⟨hi, hb⟩, -⟩ := hexec
      exact ⟨b, (classify_idle_of_ne hi hb).symm⟩
    | append b =>
      rw [exec_append, execAppend_next_iff] at hexec
      obtain ⟨⟨h1, h13⟩, -⟩ := hexec
      exact ⟨b, (classify_collecting h1 h13).symm⟩
    | complete b =>
      rw [exec_complete, execComplete_next_iff] at hexec
      exact ⟨b, (classify_fourteen hexec.1).symm⟩
  obtain ⟨b, rfl⟩ := hclass
  rw [exec_classify, Host.Outcome.next.injEq] at hexec
  exact ⟨b, rfl, hexec.symm⟩

/-- A decoder step stores at the next free position, if anywhere. -/
theorem decoderStep_buffer (s : State) (b : Byte) :
    (decoderStep s b).state = s ∨ (decoderStep s b).state.buffer = (s.storeAt (slotOf s.index) b).buffer := by
  rcases decoderStep_cases s b with ⟨hi, _, e⟩ | ⟨_, _, e⟩ | ⟨_, _, e⟩ | ⟨_, _, _, _, e⟩ | ⟨_, _, e⟩
  · have hslot : slotOf s.index = sentinelSlot := Fin.ext hi
    simp [e, hslot]
  all_goals simp [e]

theorem readBuffer_decoderStep_ne {s : State} {b : Byte} {k : Fin 16} (hk : k ≠ slotOf s.index) :
    (decoderStep s b).state.readBuffer k = s.readBuffer k := by
  rcases decoderStep_buffer s b with hsame | hstored
  · rw [hsame]
  · rw [State.readBuffer, hstored]
    exact readBuffer_storeAt_ne s b hk

/-- Only a completion loads. -/
theorem decoderStep_display_of_ne_fourteen {s : State} {b : Byte} (hi : s.index.val ≠ 14) :
    (decoderStep s b).state.shown = s.shown ∧ (decoderStep s b).state.loads = s.loads := by
  rcases decoderStep_cases s b with ⟨_, _, e⟩ | ⟨_, _, e⟩ | ⟨_, _, e⟩ | ⟨_, h14, _⟩ | ⟨h14, _⟩
  · simp [e]
  · simp [e]
  · simp [e]
  · exact absurd h14 hi
  · exact absurd h14 hi

/-- Settles O6: a class that answers a next state is a decoder step, which stores at one position at most and loads
only at index 14, where the class is COMPLETE. -/
theorem byteClassFrame : Obligations.ByteClassFrame := by
  intro ins s t hgrain hexec
  obtain ⟨b, rfl, rfl⟩ := exec_byte_next hgrain hexec
  refine ⟨fun k hk => readBuffer_decoderStep_ne hk, ?_, ?_, decoderStep_frame s b⟩
  · rintro ⟨d, hd⟩
    rw [hd, exec_discard, execDiscard_next_iff] at hexec
    exact hexec.2
  · intro hnot
    exact decoderStep_display_of_ne_fourteen fun hi => hnot b (classify_fourteen hi)

end Sys2Proof.Machine
end

section
/-! PROOFS. The step of the machine: the decoder's turn as a run over the bytes it consumes, the turn of each move, and
that every step answers a next state (R71, R114 to R116). -/

namespace Sys2Proof.Machine

/-! ### The decoder's turn -/

theorem exec_spectrum (cols : Columns) (ck : Byte) (s : State) :
    exec (.spectrum cols ck) s = .next (runBytes s (encode (.spectrum cols ck))).state := rfl

/-- A turn that reads one byte, at the grain of a byte or off idle, is the decoder step on it. -/
theorem decoderTurn_cons {g : Grain} {s : State} {b : Byte} {rest : List Byte} (hcmd : s.cmdIn = b :: rest)
    (hread : g = .byte ∨ s.index.val ≠ 0) :
    decoderTurn g s = .next ((decoderStep s b).state.setCmdIn rest) := by
  obtain ⟨ins, more, hdec⟩ := exists_decode_ok g s.index (show s.cmdIn ≠ [] by simp [hcmd])
  rw [decoderTurn_of_ok hdec]
  rcases decode_ok_cases hdec with ⟨_, _, hg, hi, _⟩ | ⟨c, hbs, rfl⟩
  · rcases hread with hbyte | hne
    · cases hbyte.symm.trans hg
    · exact absurd hi hne
  · obtain ⟨rfl, rfl⟩ := List.cons.inj (hcmd.symm.trans hbs)
    have hexec := exec_classify (s.setCmdIn rest) b
    rwa [decoderStep_setCmdIn] at hexec

/-- An idle turn at the grain of a command, with a whole frame at the front of the stream, is the run over that frame. -/
theorem decoderTurn_frame {s : State} {cols : Columns} {ck : Byte} {rest : List Byte} (hidle : s.index.val = 0)
    (hcmd : s.cmdIn = encode (.spectrum cols ck) ++ rest) :
    decoderTurn .command s = .next ((runBytes s (encode (.spectrum cols ck))).state.setCmdIn rest) := by
  have hdec : decode .command s.index s.cmdIn = .ok (.spectrum cols ck, rest) := by
    rw [hcmd]
    exact decode_command_of_frame (decodeFrame_encode_spectrum hidle cols ck rest)
  rw [decoderTurn_of_ok hdec, exec_spectrum, runBytes_setCmdIn]

/-- Everything a decoder's turn can be: nothing to read, one byte, or a whole frame. -/
theorem decoderTurn_cases (g : Grain) (s : State) :
    (s.cmdIn = [] ∧ decoderTurn g s = .next s) ∨
    (∃ b rest, s.cmdIn = b :: rest ∧ decoderTurn g s = .next ((decoderStep s b).state.setCmdIn rest)) ∨
    (∃ cols ck rest, g = .command ∧ s.index.val = 0 ∧ s.cmdIn = encode (.spectrum cols ck) ++ rest ∧
      decoderTurn g s = .next ((runBytes s (encode (.spectrum cols ck))).state.setCmdIn rest)) := by
  by_cases hcmd : s.cmdIn = []
  · exact .inl ⟨hcmd, decoderTurn_nil hcmd⟩
  · obtain ⟨ins, rest, hdec⟩ := exists_decode_ok g s.index hcmd
    rcases decode_ok_cases hdec with ⟨cols, ck, rfl, hi, -, hbs⟩ | ⟨b, hbs, rfl⟩
    · exact .inr (.inr ⟨cols, ck, rest, rfl, hi, hbs, decoderTurn_frame hi hbs⟩)
    · have hexec := exec_classify (s.setCmdIn rest) b
      rw [decoderStep_setCmdIn] at hexec
      exact .inr (.inl ⟨b, rest, hbs, (decoderTurn_of_ok hdec).trans hexec⟩)

/-- A decoder's turn is a run over the bytes at the front of the command stream that it consumes. -/
theorem decoderTurn_eq_run (g : Grain) (s : State) :
    ∃ bs rest, s.cmdIn = bs ++ rest ∧ decoderTurn g s = .next ((runBytes s bs).state.setCmdIn rest) := by
  rcases decoderTurn_cases g s with ⟨hcmd, e⟩ | ⟨b, rest, hcmd, e⟩ | ⟨cols, ck, rest, -, -, hcmd, e⟩
  · exact ⟨[], s.cmdIn, rfl, e⟩
  · exact ⟨[b], rest, hcmd, e⟩
  · exact ⟨_, rest, hcmd, e⟩

/-! ### Every step answers -/

theorem takeMove_answers (m : Move) (s : State) : ∃ t, takeMove m s = .next t := by
  cases m with
  | decode => obtain ⟨_, _, -, e⟩ := decoderTurn_eq_run .byte s; exact ⟨_, e⟩
  | command => obtain ⟨_, _, -, e⟩ := decoderTurn_eq_run .command s; exact ⟨_, e⟩
  | relay | reset | resetWithByte | powerOn | deliverCommand | deliverSensor | hostReady => exact ⟨_, rfl⟩

theorem freeTurn_answers (s : State) : ∃ t, freeTurn s = .next t := by
  rcases freeTurn_cases s with e | e | e | e
  · obtain ⟨_, _, -, hrun⟩ := decoderTurn_eq_run .byte s; exact ⟨_, e.trans hrun⟩
  · exact ⟨_, e⟩
  · exact ⟨_, e⟩
  · obtain ⟨_, _, -, hrun⟩ := decoderTurn_eq_run .byte s.countPick; exact ⟨_, e.trans hrun⟩

/-- Settles O37: every move answers, and so does the free-running loop. -/
theorem stepAlwaysAnswersNext : Obligations.StepAlwaysAnswersNext := by
  intro s
  rcases step_cases s with ⟨-, e⟩ | ⟨m, ms, -, e⟩ <;> rw [e]
  · exact freeTurn_answers s
  · exact takeMove_answers m _

/-! ### The turns of the agenda and of the free-running loop -/

theorem step_of_agenda {s : State} {m : Move} {ms : List Move} (h : s.agenda = m :: ms) :
    step s = takeMove m (s.setAgenda ms) := loopTurn_cons h

theorem step_of_agenda_nil {s : State} (h : s.agenda = []) : step s = freeTurn s := loopTurn_nil h

theorem takeMove_moveOf (g : Grain) (s : State) : takeMove (moveOf g) s = decoderTurn g s := by
  cases g <;> rfl

/-- With no sensor byte waiting the free-running loop gives the decoder its turn. -/
theorem freeTurn_of_sensorIn_nil {s : State} (h : s.sensorIn = []) : freeTurn s = decoderTurn .byte s := by
  unfold freeTurn
  rw [h]

/-- With a sensor byte alone waiting it gives the relay its turn. -/
theorem freeTurn_of_cmdIn_nil {s : State} (hcmd : s.cmdIn = []) (hsensor : s.sensorIn ≠ []) :
    freeTurn s = .next (relayTurn s) := by
  obtain ⟨b, rest, h⟩ := List.exists_cons_of_ne_nil hsensor
  unfold freeTurn
  rw [hcmd, h]

/-- Where both agents have a byte, the free choice gives the turn (log 3). -/
theorem freeTurn_of_both {s : State} (hcmd : s.cmdIn ≠ []) (hsensor : s.sensorIn ≠ []) :
    freeTurn s = if Config.relayFirst s.picks then .next (relayTurn s.countPick)
      else decoderTurn .byte s.countPick := by
  obtain ⟨b, rest, h⟩ := List.exists_cons_of_ne_nil hcmd
  obtain ⟨c, more, h'⟩ := List.exists_cons_of_ne_nil hsensor
  unfold freeTurn
  rw [h, h']

theorem cmdIn_ne_nil_of_decode_ok {g : Grain} {i : Index} {bs : List Byte} {r : Instr × List Byte}
    (h : decode g i bs = .ok r) : bs ≠ [] := by
  rintro rfl
  cases g <;> cases h

/-- Settles O36: each of the three turns is the decoder's turn on the state whose agenda or choice was taken. -/
theorem stepRunsTheDecodedInstruction : Obligations.StepRunsTheDecodedInstruction := by
  intro s g ins rest ms hdec
  refine ⟨fun hagenda => ?_, fun hagenda hg hsensor => ?_, fun hagenda hg hsensor => ?_⟩
  · rw [step_of_agenda hagenda, takeMove_moveOf]
    exact decoderTurn_of_ok hdec
  · subst hg
    rw [step_of_agenda_nil hagenda, freeTurn_of_sensorIn_nil hsensor]
    exact decoderTurn_of_ok hdec
  · subst hg
    have hturn : decoderTurn .byte s.countPick = exec ins (s.countPick.setCmdIn rest) := decoderTurn_of_ok hdec
    rw [step_of_agenda_nil hagenda, freeTurn_of_both (cmdIn_ne_nil_of_decode_ok hdec) hsensor, hturn]

/-! ### Relay, environment, reset and power-on as moves -/

/-- A relay's turn that is enabled (R68). -/
theorem relayTurn_of_ready {s : State} {b : Byte} {rest : List Byte} (hsensor : s.sensorIn = b :: rest)
    (hready : s.hostReady = true) : relayTurn s = (s.emitRelay b).setSensorIn rest := by
  rw [relayTurn, hsensor]
  simp [hready]

/-- A relay's turn that is not enabled (R66, log 22). -/
theorem relayTurn_of_blocked {s : State} (h : s.sensorIn = [] ∨ s.hostReady = false) : relayTurn s = s := by
  rcases relayTurn_cases s with ⟨-, e⟩ | ⟨b, rest, hsensor, hready, -⟩
  · exact e
  · simp [hsensor, hready] at h

/-- Settles O38: the turn moves a byte exactly where the relay is enabled. -/
theorem relayTurnMovesOneByte : Obligations.RelayTurnMovesOneByte := by
  intro s ms
  refine ⟨fun b rest hsensor hready => ?_, fun hblocked => ?_⟩ <;> rw [step_move, takeMove]
  · rw [relayTurn_of_ready (s := s.setAgenda ms) hsensor hready]
    rfl
  · rw [relayTurn_of_blocked (s := s.setAgenda ms) hblocked]
    rfl

/-- Settles O48: each delivery appends to its own stream. -/
theorem deliveryKeepsStreamOrder : Obligations.DeliveryKeepsStreamOrder := by
  intro s b ready ms
  rw [step_move, step_move, step_move]
  exact ⟨rfl, rfl, rfl⟩

/-- Settles O45: the buffer after a reset event is the free value of log 9. -/
theorem resetAbandonsTheCandidate : Obligations.ResetAbandonsTheCandidate := by
  intro s ms
  rw [step_move, step_move]
  exact ⟨⟨Config.bufferAfterReset s.resets s.buffer, rfl⟩, ⟨Config.bufferAfterReset s.resets s.buffer, rfl⟩⟩

theorem shownInit_eq : Config.shownInit = #v[0#32, 0#32, 0#32, 0#32] := by decide

/-- Settles O44: the fields of the reset state. -/
theorem powerOnStateIsIdleAndDark : Obligations.PowerOnStateIsIdleAndDark := ⟨rfl, shownInit_eq, rfl, rfl⟩

/-- Settles O47: the all-on frame is replaced within the step, whatever it is. -/
theorem powerOnDarkensTheDisplay : Obligations.PowerOnDarkensTheDisplay := by
  intro s ms
  exact ⟨powerOn (s.setAgenda ms), step_move s .powerOn ms, by simp [shownInit_eq]⟩

end Sys2Proof.Machine
end

section
/-! PROOFS. The invariant of `buffer[0]`, the unused bits and the frame shown (R15, R32, R117). -/

namespace Sys2Proof.Machine

/-! ### What a step can do to the decoder and the display -/

/-- The relay's turn leaves the decoder's part alone (R67). -/
theorem relayTurn_decoder_part (s : State) : relayTurn s = s.onto (relayTurn s) := by
  obtain ⟨hindex, hbuffer, hshown, -, -, hloads, -⟩ := relayTurn_frame s
  apply State.ext <;> simp [State.onto, hindex, hbuffer, hshown, hloads]

theorem decoderTurn_decoder_part {g : Grain} {s t : State} (h : decoderTurn g s = .next t) :
    ∃ bs, t = (runBytes s bs).state.onto t := by
  obtain ⟨bs, rest, -, hrun⟩ := decoderTurn_eq_run g s
  obtain rfl : _ = t := Host.Outcome.next.inj (hrun.symm.trans h)
  exact ⟨bs, rfl⟩

/-- A run commutes with a change of what is not the decoder's; read at the decoder's part. -/
theorem runBytes_onto_onto (s u t : State) (bs : List Byte) :
    (runBytes (s.onto u) bs).state.onto t = (runBytes s bs).state.onto t := by
  rw [runBytes_onto]
  rfl

/-- To the decoder and the display a step does a run over some command bytes, a reset event, or a power-on. -/
theorem step_decoder_part {s t : State} (h : step s = .next t) :
    (∃ bs, t = (runBytes s bs).state.onto t) ∨ t = (resetEvent s).onto t ∨ t = (powerOn s).onto t := by
  have hquiet : ∀ u : State, t = s.onto u → t = s.onto t := by
    rintro u rfl
    rfl
  rcases step_cases s with ⟨-, e⟩ | ⟨m, ms, -, e⟩
  · rcases freeTurn_cases s with hfree | hfree | hfree | hfree <;> rw [e, hfree] at h
    · exact .inl (decoderTurn_decoder_part h)
    · obtain rfl : relayTurn s = t := Host.Outcome.next.inj h
      exact .inl ⟨[], relayTurn_decoder_part s⟩
    · obtain rfl : relayTurn s.countPick = t := Host.Outcome.next.inj h
      exact .inl ⟨[], hquiet _ (relayTurn_decoder_part s.countPick)⟩
    · obtain ⟨bs, ht⟩ := decoderTurn_decoder_part h
      rw [show s.countPick = s.onto s.countPick from rfl, runBytes_onto_onto] at ht
      exact .inl ⟨bs, ht⟩
  · have hdecoder : ∀ g, decoderTurn g (s.setAgenda ms) = .next t → ∃ bs, t = (runBytes s bs).state.onto t := by
      intro g hturn
      obtain ⟨bs, ht⟩ := decoderTurn_decoder_part hturn
      rw [show s.setAgenda ms = s.onto (s.setAgenda ms) from rfl, runBytes_onto_onto] at ht
      exact ⟨bs, ht⟩
    rw [e] at h
    cases m with
    | decode => exact .inl (hdecoder .byte h)
    | command => exact .inl (hdecoder .command h)
    | relay =>
      obtain rfl : relayTurn (s.setAgenda ms) = t := Host.Outcome.next.inj h
      exact .inl ⟨[], hquiet _ (relayTurn_decoder_part (s.setAgenda ms))⟩
    | reset => obtain rfl : _ = t := Host.Outcome.next.inj h; exact .inr (.inl rfl)
    | resetWithByte => obtain rfl : _ = t := Host.Outcome.next.inj h; exact .inr (.inl rfl)
    | powerOn => obtain rfl : _ = t := Host.Outcome.next.inj h; exact .inr (.inr rfl)
    | deliverCommand | deliverSensor | hostReady =>
      obtain rfl : _ = t := Host.Outcome.next.inj h; exact .inl ⟨[], rfl⟩

/-! ### The invariant is kept -/

theorem unusedClear_compose (cols : Columns) : unusedClear (compose cols) = true := by
  rw [unusedClear, (unusedBitsAreZero cols).1]
  rfl

theorem unusedClear_shownInit : unusedClear Config.shownInit = true := by decide

/-- The invariant speaks of the decoder's part alone. -/
theorem inv_onto_iff {s t : State} : Inv (s.onto t) ↔ Inv s := Iff.rfl

/-- Idle, the clause of R15 asks for nothing. -/
theorem inv_of_idle {s t : State} (hs : Inv s) (hidle : t.index = 0) (hshown : t.shown = s.shown)
    (hloads : t.loads = s.loads) : Inv t := by
  obtain ⟨-, hclear, hshownClear, hlast⟩ := hs
  refine ⟨fun hne => absurd (congrArg Fin.val hidle) hne, ?_, ?_, ?_⟩
  · rwa [hloads]
  · rwa [hshown]
  · rwa [hshown, hloads]

/-- A load of a plane with its unused bits clear keeps what the invariant says of the display. -/
theorem inv_load {s : State} {plane : Bitplane} (hs : Inv s) (hplane : unusedClear plane = true) :
    Inv (s.load plane) := by
  obtain ⟨hsentinel, hclear, -, -⟩ := hs
  refine ⟨hsentinel, ?_, hplane, ?_⟩
  · intro q hq
    rcases List.mem_append.mp hq with hold | hnew
    · exact hclear q hold
    · rwa [List.mem_singleton.mp hnew]
  · rw [State.load_shown, State.load_loads, List.getLastD_concat]

theorem decoderStep_keeps_inv {s : State} (b : Byte) (hs : Inv s) : Inv (decoderStep s b).state := by
  rcases decoderStep_cases s b with ⟨-, rfl, e⟩ | ⟨-, -, e⟩ | ⟨hlt, hne, e⟩ | ⟨plane, -, -, hplane, e⟩ | ⟨-, -, e⟩ <;>
    rw [e]
  · obtain ⟨-, hdisplay⟩ := hs
    exact ⟨fun _ => readBuffer_storeAt_self s sentinelSlot _, hdisplay⟩
  · exact hs
  · obtain ⟨hsentinel, hdisplay⟩ := hs
    have hslot : sentinelSlot ≠ slotOf s.index := fun h => hne (congrArg Fin.val h).symm
    exact ⟨fun _ => (readBuffer_storeAt_ne s b hslot).trans (hsentinel hne), hdisplay⟩
  · have hclear : unusedClear plane = true := hplane ▸ unusedClear_compose _
    exact inv_of_idle (inv_load hs hclear) rfl rfl rfl
  · exact inv_of_idle hs rfl rfl rfl

theorem runBytes_keeps_inv {s : State} (bs : List Byte) (hs : Inv s) : Inv (runBytes s bs).state := by
  induction bs generalizing s with
  | nil => exact hs
  | cons b bs ih => exact ih (decoderStep_keeps_inv b hs)

/-- A dark display and no loads meet the invariant at idle, whatever the buffer. -/
theorem inv_of_dark {s : State} (hidle : s.index = 0) (hshown : s.shown = Config.shownInit) (hloads : s.loads = []) :
    Inv s := by
  refine ⟨fun hne => absurd (congrArg Fin.val hidle) hne, ?_, ?_, ?_⟩
  · simp [hloads]
  · rw [hshown]
    exact unusedClear_shownInit
  · rw [hshown, hloads]
    rfl

/-- Settles O49: a run over command bytes keeps the invariant step by step; a reset event keeps the display and is
idle; a power-on starts both anew. -/
theorem stepKeepsInv : Obligations.StepKeepsInv := by
  intro s t hs hstep
  rcases step_decoder_part hstep with ⟨bs, ht⟩ | ht | ht <;> rw [ht, inv_onto_iff]
  · exact runBytes_keeps_inv bs hs
  · exact inv_of_idle hs rfl rfl rfl
  · exact inv_of_dark rfl rfl rfl

/-- Settles O50: the reset state is idle and dark and has loaded nothing. -/
theorem invHoldsAtPowerOn : Obligations.InvHoldsAtPowerOn := inv_of_dark rfl rfl rfl

end Sys2Proof.Machine
end

section
/-! PROOFS. Runs over a byte sequence: concatenation, noise, and what the buffer holds while a candidate is collected
(R15, R81, R119). -/

namespace Sys2Proof.Machine

/-- A run over a concatenation is two runs, one from where the other leads. -/
theorem runBytes_append (s : State) (bs cs : List Byte) :
    runBytes s (bs ++ cs) =
      ⟨(runBytes (runBytes s bs).state cs).state,
        (runBytes s bs).tags ++ (runBytes (runBytes s bs).state cs).tags,
        (runBytes s bs).loads ++ (runBytes (runBytes s bs).state cs).loads⟩ := by
  induction bs generalizing s with
  | nil => simp
  | cons b bs ih => simp [runBytes_cons, ih]

/-- Settles O13, by induction on the first part. -/
theorem runDistributes : Obligations.RunDistributes := runBytes_append

/-- While idle, bytes without a sentinel pass one by one (R81). -/
theorem runBytes_noise {s : State} {bs : List Byte} (hidle : s.index = 0) (hfree : SentinelFree bs) :
    runBytes s bs = ⟨s, List.replicate bs.length .discarded, []⟩ := by
  induction bs with
  | nil => rfl
  | cons b bs ih =>
    obtain ⟨hb, hbs⟩ := List.forall_mem_cons.mp hfree
    rw [runBytes_cons, decoderStep_discard (congrArg Fin.val hidle) hb, ih hbs]
    rfl

/-- Settles O14, by induction on the bytes: each is discarded and the state stays. -/
theorem noiseWhileIdleChangesNothing : Obligations.NoiseWhileIdleChangesNothing := fun _ _ => runBytes_noise

/-! ### Collecting -/

/-- A store at the next free position, on the buffer as a list. -/
theorem toList_storeAt_slotOf (s : State) (b : Byte) :
    (s.storeAt (slotOf s.index) b).buffer.toList = s.buffer.toList.set s.index.val b :=
  Vector.toList_set (slotOf s.index).isLt

/-- A store at the next free position puts the byte behind those taken before. -/
theorem take_storeAt_slotOf (s : State) (b : Byte) :
    (s.storeAt (slotOf s.index) b).buffer.toList.take (s.index.val + 1) =
      s.buffer.toList.take s.index.val ++ [b] := by
  have hlt : s.index.val < s.buffer.toList.length := by simp; omega
  rw [toList_storeAt_slotOf, List.take_add_one, List.take_set_of_le (Nat.le_refl _), List.getElem?_set_self hlt]
  rfl

/-- It leaves the bytes after that position alone. -/
theorem drop_storeAt_slotOf (s : State) (b : Byte) {n : Nat} (hn : s.index.val < n) :
    (s.storeAt (slotOf s.index) b).buffer.toList.drop n = s.buffer.toList.drop n := by
  rw [toList_storeAt_slotOf, List.drop_set_of_lt hn]

/-- Byte k of the buffer, read from its list. -/
theorem readBuffer_eq_getElem_toList (s : State) (k : Fin 16) :
    s.readBuffer k = s.buffer.toList[k.val]'(by simp) := by
  rw [State.readBuffer, Vector.getElem_toList]

/-- While collecting, up to index 14, a run puts its bytes behind those taken before and changes only the buffer and
the index (R74). -/
theorem runBytes_collecting {s : State} {bs : List Byte} (hcollecting : s.index.val ≠ 0)
    (hroom : s.index.val + bs.length ≤ 14) :
    ∃ (buf : Buffer) (i : Index),
      runBytes s bs = ⟨{ s with buffer := buf, index := i }, List.replicate bs.length .needMoreBytes, []⟩ ∧
      i.val = s.index.val + bs.length ∧
      buf.toList = s.buffer.toList.take s.index.val ++ bs ++ s.buffer.toList.drop (s.index.val + bs.length) := by
  induction bs generalizing s with
  | nil => exact ⟨s.buffer, s.index, rfl, rfl, by simp⟩
  | cons b bs ih =>
    rw [List.length_cons] at hroom
    have hlt : s.index.val + 1 < 15 := by omega
    obtain ⟨buf, i, hrun, hi, hbuf⟩ :=
      ih (s := (s.storeAt (slotOf s.index) b).setIndex ⟨s.index.val + 1, hlt⟩) (Nat.succ_ne_zero _)
        (show s.index.val + 1 + bs.length ≤ 14 by omega)
    have hi : i.val = s.index.val + 1 + bs.length := hi
    have hlength : s.index.val + (b :: bs).length = s.index.val + 1 + bs.length := by
      rw [List.length_cons]
      omega
    refine ⟨buf, i, ?_, hi.trans hlength.symm, ?_⟩
    · rw [runBytes_cons, decoderStep_append hcollecting hlt, hrun]
      rfl
    · rw [hbuf, State.setIndex_buffer, State.setIndex_index, take_storeAt_slotOf,
        hlength,
        drop_storeAt_slotOf s b (show s.index.val < s.index.val + 1 + bs.length by omega)]
      simp

/-- A sentinel met while idle begins a candidate: it and the bytes after it, up to 14 in all, stand at the front of
the buffer (R15). -/
theorem runBytes_candidate {s : State} {bs : List Byte} (hidle : s.index = 0) (hroom : bs.length ≤ 13) :
    ∃ (buf : Buffer) (i : Index),
      runBytes s (Config.sentinel :: bs) =
        ⟨{ s with buffer := buf, index := i }, List.replicate (bs.length + 1) .needMoreBytes, []⟩ ∧
      i.val = bs.length + 1 ∧
      buf.toList = Config.sentinel :: bs ++ s.buffer.toList.drop (bs.length + 1) := by
  have hstart := decoderStep_start (s := s) (b := Config.sentinel) (congrArg Fin.val hidle) rfl
  have hslot : sentinelSlot = slotOf s.index := by rw [hidle]; rfl
  have htake := take_storeAt_slotOf s Config.sentinel
  have hdrop := drop_storeAt_slotOf s Config.sentinel (n := 1 + bs.length) (by rw [hidle]; omega)
  rw [← hslot] at htake hdrop
  rw [hidle] at htake
  obtain ⟨buf, i, hrun, hi, hbuf⟩ :=
    runBytes_collecting (s := (s.storeAt sentinelSlot Config.sentinel).setIndex 1) (bs := bs) Nat.one_ne_zero
      (show 1 + bs.length ≤ 14 by omega)
  refine ⟨buf, i, ?_, hi.trans (Nat.add_comm _ _), ?_⟩
  · rw [runBytes_cons, hstart, hrun]
    rfl
  · rw [hbuf, State.setIndex_buffer, Nat.add_comm bs.length]
    exact congrArg₂ (fun front back => front ++ bs ++ back) htake hdrop

/-- Settles O15: the candidate's bytes are the front of the buffer. -/
theorem partialCandidateHoldsItsBytes : Obligations.PartialCandidateHoldsItsBytes := by
  intro s bs hidle hroom
  have hsentinel : (0xDD#8 : Byte) = Config.sentinel := rfl
  obtain ⟨buf, i, hrun, hi, hbuf⟩ := runBytes_candidate hidle hroom
  rw [hsentinel, hrun]
  refine ⟨hi, fun k hk => ?_, rfl⟩
  rw [readBuffer_eq_getElem_toList]
  simp only [hbuf]
  exact List.getElem_append_left (by simpa using hk)

end Sys2Proof.Machine
end

section
/-! PROOFS. Whole frames from idle: the effect of the 15 bytes of SPECTRUM with the right and with another checksum
(R82, R88, R113), and what follows for truncated frames, resynchronisation and clean streams (R83, R84, R119, R148,
R149). -/

namespace Sys2Proof.Machine

/-! ### The buffer after a frame -/

/-- The buffer with the 15 bytes of a frame at its front; position 15 is as before. -/
def frameBuffer (buf : Buffer) (cols : Columns) (ck : Byte) : Buffer :=
  ⟨(encode (.spectrum cols ck) ++ [buf[15]]).toArray, by simp [encode]⟩

theorem toList_frameBuffer (buf : Buffer) (cols : Columns) (ck : Byte) :
    (frameBuffer buf cols ck).toList = Config.sentinel :: cols.toList ++ [ck] ++ [buf[15]] := by
  simp [frameBuffer, Vector.toList, encode]

theorem getElem_frameBuffer (buf : Buffer) (cols : Columns) (ck : Byte) {k : Nat} (hk : k < 16) :
    (frameBuffer buf cols ck)[k] = (Config.sentinel :: cols.toList ++ [ck] ++ [buf[15]])[k]'(by simp; omega) := by
  have hget := Vector.getElem_toList (xs := frameBuffer buf cols ck) (i := k) (by simpa using hk)
  simp only [toList_frameBuffer] at hget
  exact hget.symm

/-- The four parts of the buffer after a frame (R11). -/
theorem frameBuffer_parts (buf : Buffer) (cols : Columns) (ck : Byte) :
    (frameBuffer buf cols ck)[0] = Config.sentinel ∧
      (∀ c : Fin 13, (frameBuffer buf cols ck)[1 + c.val] = cols[c]) ∧
      (frameBuffer buf cols ck)[14] = ck ∧ (frameBuffer buf cols ck)[15] = buf[15] := by
  refine ⟨getElem_frameBuffer _ _ _ _, fun c => ?_, ?_, ?_⟩
  · have hlt : c.val + 1 < 16 := by omega
    simp only [Nat.add_comm 1 c.val, getElem_frameBuffer _ _ _ hlt]
    simp [List.getElem_append_left]
  · rw [getElem_frameBuffer]
    simp
  · rw [getElem_frameBuffer]
    simp

/-- The columns are bytes 1 to 13 of the buffer, as a list (R52). -/
theorem toList_columnsOf (buf : Buffer) : (columnsOf buf).toList = (buf.toList.take 14).drop 1 := by
  apply List.ext_getElem
  · simp
  · intro k _ _
    simp [Nat.add_comm 1]

/-- A buffer that begins with the sentinel and 13 columns: its checksum, its columns, and what storing the checksum
byte makes of it. -/
theorem candidate_of_toList {buf old : Buffer} {cols : Columns}
    (hbuf : buf.toList = Config.sentinel :: cols.toList ++ old.toList.drop 14) :
    xorAcc (buf.toList.take 14) = checksumOf cols ∧ columnsOf buf = cols ∧
      ∀ ck, buf.set 14 ck = frameBuffer old cols ck := by
  have hlen : (Config.sentinel :: cols.toList).length = 14 := by simp
  have htake : buf.toList.take 14 = Config.sentinel :: cols.toList := by
    rw [hbuf]
    exact List.take_left' hlen
  refine ⟨by rw [htake, checksumOf], ?_, fun ck => ?_⟩
  · rw [← Vector.toList_inj, toList_columnsOf, htake]
    rfl
  · have hrest : old.toList.drop 14 = [old[14], old[15]] := by
      apply List.ext_getElem
      · simp
      · intro k hk _
        have hk2 : k = 0 ∨ k = 1 := by simp at hk; omega
        rcases hk2 with rfl | rfl <;> simp
    rw [← Vector.toList_inj, Vector.toList_set, hbuf, hrest, List.set_append_right _ _ (by rw [hlen]), hlen,
      toList_frameBuffer, List.append_assoc]
    rfl

/-! ### The run over a frame -/

/-- From idle, the sentinel and 13 columns lead to index 14 with the candidate collected. -/
theorem runBytes_columns {s : State} (hidle : s.index = 0) (cols : Columns) :
    ∃ buf : Buffer,
      runBytes s (Config.sentinel :: cols.toList) =
        ⟨{ s with buffer := buf, index := 14 }, List.replicate 14 .needMoreBytes, []⟩ ∧
      xorAcc (buf.toList.take 14) = checksumOf cols ∧ columnsOf buf = cols ∧
      ∀ ck, buf.set 14 ck = frameBuffer s.buffer cols ck := by
  obtain ⟨buf, i, hrun, hi, hbuf⟩ := runBytes_candidate (bs := cols.toList) hidle (by simp)
  rw [Vector.length_toList] at hrun hi hbuf
  obtain rfl : i = 14 := Fin.ext hi
  exact ⟨buf, hrun, candidate_of_toList hbuf⟩

theorem encode_spectrum (cols : Columns) (ck : Byte) :
    encode (.spectrum cols ck) = Config.sentinel :: cols.toList ++ [ck] := rfl

/-- A frame with its right checksum, from idle: one load of the composed plane, and idle again (R113). -/
theorem runBytes_spectrumOf {s : State} (hidle : s.index = 0) (cols : Columns) :
    runBytes s (encode (spectrumOf cols)) =
      ⟨{ s with
          buffer := frameBuffer s.buffer cols (checksumOf cols), index := 0,
          shown := compose cols, loads := s.loads ++ [compose cols] },
        List.replicate 14 .needMoreBytes ++ [.frameReady cols (compose cols)], [compose cols]⟩ := by
  obtain ⟨buf, hrun, hxor, hcols, hset⟩ := runBytes_columns hidle cols
  have hstep := decoderStep_of_match (s := { s with buffer := buf, index := 14 }) (b := checksumOf cols) rfl hxor
  rw [toIdle_load_storeAt_cksumSlot] at hstep
  rw [spectrumOf, encode_spectrum, runBytes_append, hrun, runBytes_cons, hstep]
  simp only [runBytes_nil, hcols, hset, Option.toList_some, List.append_nil, List.nil_append]

/-- A frame with another checksum, from idle: its bytes are taken and nothing is loaded (R88). -/
theorem runBytes_spectrum_of_ne {s : State} {cols : Columns} {ck : Byte} (hidle : s.index = 0)
    (hck : ck ≠ checksumOf cols) :
    runBytes s (encode (.spectrum cols ck)) =
      ⟨{ s with buffer := frameBuffer s.buffer cols ck, index := 0 },
        List.replicate 14 .needMoreBytes ++ [.frameDropped], []⟩ := by
  obtain ⟨buf, hrun, hxor, -, hset⟩ := runBytes_columns hidle cols
  have hne : xorAcc (buf.toList.take 14) ≠ ck := by rw [hxor]; exact hck.symm
  have hstep := decoderStep_of_mismatch (s := { s with buffer := buf, index := 14 }) (b := ck) rfl hne
  rw [encode_spectrum, runBytes_append, hrun, runBytes_cons, hstep, ← hset ck]
  rfl

/-- Settles O9: the run over the frame, field by field. -/
theorem spectrumFromIdleShowsItsFrame : Obligations.SpectrumFromIdleShowsItsFrame := by
  intro s cols hidle
  obtain ⟨hsentinel, hcolumns, hck, hlast⟩ := frameBuffer_parts s.buffer cols (checksumOf cols)
  refine ⟨_, rfl, ?_⟩
  rw [← spectrumOf, runBytes_spectrumOf hidle]
  exact ⟨rfl, rfl, rfl, hsentinel, hcolumns, hck, hlast, rfl, rfl, rfl, rfl, rfl, rfl, rfl⟩

/-- Settles O10: the same run with another checksum, field by field. -/
theorem spectrumWithWrongChecksumIsDropped : Obligations.SpectrumWithWrongChecksumIsDropped := by
  intro s cols ck hidle hck
  obtain ⟨hsentinel, hcolumns, hcksum, hlast⟩ := frameBuffer_parts s.buffer cols ck
  refine ⟨_, rfl, ?_⟩
  rw [runBytes_spectrum_of_ne hidle hck]
  exact ⟨rfl, rfl, rfl, hsentinel, hcolumns, hcksum, hlast, rfl, rfl, rfl, rfl, rfl, rfl, rfl⟩

/-- Before its 15th byte a frame loads nothing. -/
theorem loads_take_spectrum {s : State} (hidle : s.index = 0) (cols : Columns) (ck : Byte) {n : Nat} (hn : n ≤ 14) :
    (runBytes s ((encode (.spectrum cols ck)).take n)).loads = [] := by
  cases n with
  | zero => rfl
  | succ n =>
    rw [encode, List.take_succ_cons]
    obtain ⟨_, _, hrun, -⟩ := runBytes_candidate (bs := (cols.toList ++ [ck]).take n) hidle (by simp; omega)
    rw [hrun]

/-- Settles O12: the run over the frame; before its last byte only columns have been collected. -/
theorem validFrameGivesOneLoad : Obligations.ValidFrameGivesOneLoad := by
  intro s cols hidle
  rw [runBytes_spectrumOf hidle]
  exact ⟨rfl, rfl, rfl, fun n hn => loads_take_spectrum hidle cols _ hn⟩

/-! ### Truncated frames (R84, R148) -/

/-- A sentinel and any 14 bytes are the encoding of a command. -/
theorem encode_spectrum_of_length {tl : List Byte} (hlen : tl.length = 14) :
    encode (.spectrum (Vector.ofFn (fun c : Fin 13 => tl.getD c.val 0#8)) (tl.getD 13 0#8)) = Config.sentinel :: tl := by
  have hcols : (Vector.ofFn (fun c : Fin 13 => tl.getD c.val 0#8)).toList = tl.take 13 := by
    apply List.ext_getElem
    · simp [hlen]
    · intro k hk _
      have hlt : k < tl.length := by simp at hk; omega
      simp [hlt]
  have hlast : [tl.getD 13 0#8] = tl.drop 13 := by
    rw [List.drop_eq_getElem_cons (by omega), List.drop_eq_nil_of_le (by omega)]
    simp [hlen]
  rw [encode, hcols, hlast, List.take_append_drop]

/-- From idle a frame loads exactly when all its bytes cancel, and it leaves the synchronizer idle either way. -/
theorem runBytes_spectrum_loads {s : State} (hidle : s.index = 0) (cols : Columns) (ck : Byte) :
    (runBytes s (encode (.spectrum cols ck))).state.index = 0 ∧
    (runBytes s (encode (.spectrum cols ck))).loads =
      if xorAcc (encode (.spectrum cols ck)) = 0#8 then [compose cols] else [] := by
  have hxor : xorAcc (encode (.spectrum cols ck)) = checksumOf cols ^^^ ck := by
    rw [encode_spectrum, xorAcc_append, checksumOf, xorAcc_cons ck, xorAcc_nil, BitVec.xor_zero]
  by_cases hck : ck = checksumOf cols
  · rw [if_pos (by rw [hxor, hck, BitVec.xor_self]), hck, ← spectrumOf, runBytes_spectrumOf hidle]
    exact ⟨rfl, rfl⟩
  · rw [if_neg (by rwa [hxor, BitVec.xor_eq_zero_iff, eq_comm]), runBytes_spectrum_of_ne hidle hck]
    exact ⟨rfl, rfl⟩

/-- Settles O16: whatever the 14 bytes were cut from, with the sentinel before them they are one command. -/
theorem truncatedFrameSwallowsWhatFollows : Obligations.TruncatedFrameSwallowsWhatFollows := by
  intro s pre nxt hidle hne hlen
  have hnxt := List.length_pos_of_ne_nil hne
  obtain ⟨_, _, hrun, hi, -⟩ := runBytes_candidate (bs := pre) hidle (by omega)
  have hall := runBytes_spectrum_loads hidle (Vector.ofFn (fun c : Fin 13 => (pre ++ nxt).getD c.val 0#8))
    ((pre ++ nxt).getD 13 0#8)
  rw [encode_spectrum_of_length (by simpa using hlen)] at hall
  have hsentinel : (0xDD#8 : Byte) = Config.sentinel := rfl
  rw [hsentinel, hrun]
  exact ⟨hi, rfl, hall⟩

/-! ### Resynchronisation (R83, R149) -/

/-- Whatever byte is met at index 14, the synchronizer is idle after it (R75). -/
theorem decoderStep_index_of_fourteen {s : State} (hi : s.index.val = 14) (b : Byte) :
    (decoderStep s b).state.index = 0 := by
  by_cases hx : xorAcc (s.buffer.toList.take 14) = b
  · rw [decoderStep_of_match hi hx]
    rfl
  · rw [decoderStep_of_mismatch hi hx]
    rfl

/-- Settles O17: the byte leads to idle, and from there the frame decodes. -/
theorem frameAfterAnyCompletionDecodes : Obligations.FrameAfterAnyCompletionDecodes := by
  intro s b cols hi
  rw [runBytes_cons, runBytes_spectrumOf (decoderStep_index_of_fourteen hi b)]
  refine ⟨rfl, ?_, rfl, ?_⟩
  · rw [List.getLast?_concat]
  · rw [← List.cons_append, List.getLast?_concat]

/-- Fourteen bytes without a sentinel complete whatever candidate there is; what is left of them is noise. -/
theorem runBytes_flush (s : State) {bs : List Byte} (hlen : bs.length = 14) (hfree : SentinelFree bs) :
    (runBytes s bs).state.index = 0 ∧ (runBytes s bs).loads.length ≤ 1 := by
  by_cases hidle : s.index.val = 0
  · have hidle : s.index = 0 := Fin.ext hidle
    rw [runBytes_noise hidle hfree]
    exact ⟨hidle, Nat.zero_le 1⟩
  · have hfirst : (bs.take (14 - s.index.val)).length = 14 - s.index.val := by simp; omega
    obtain ⟨b, noise, hrest⟩ := List.exists_cons_of_ne_nil
      (l := bs.drop (14 - s.index.val)) (by simp only [ne_eq, List.drop_eq_nil_iff]; omega)
    obtain ⟨buf, i, hrun, hi, -⟩ := runBytes_collecting (bs := bs.take (14 - s.index.val)) hidle (by omega)
    have hcompleted := decoderStep_index_of_fourteen
      (s := { s with buffer := buf, index := i }) (show i.val = 14 by omega) b
    have hnoise : SentinelFree noise := fun c hc =>
      hfree c (List.mem_of_mem_drop (hrest ▸ List.mem_cons_of_mem b hc))
    rw [← List.take_append_drop (14 - s.index.val) bs, hrest, runBytes_append, hrun, runBytes_cons,
      runBytes_noise hcompleted hnoise]
    refine ⟨hcompleted, ?_⟩
    simp only [List.nil_append, List.append_nil]
    exact Option.length_toList_le

/-- Settles O18: a flush leads to idle, where a valid frame decodes; a candidate of one byte is not yet complete after
13 more. -/
theorem flushReachesIdle : Obligations.FlushReachesIdle := by
  refine ⟨fun s bs hlen hfree => ?_, State.reset.setIndex 1, ?_⟩
  · obtain ⟨hidle, hloads⟩ := runBytes_flush s hlen hfree
    refine ⟨hidle, hloads, fun cols => ?_⟩
    rw [runBytes_append, runBytes_spectrumOf hidle]
    exact ⟨rfl, rfl⟩
  · obtain ⟨_, i, hrun, hi, -⟩ := runBytes_collecting (s := State.reset.setIndex 1) (bs := List.replicate 13 0#8)
      Nat.one_ne_zero (by decide)
    rw [hrun]
    exact fun h => absurd (hi.symm.trans (congrArg Fin.val h)) (by decide)

/-! ### Clean streams (R119) -/

/-- A clean line is a whole valid command that shows its plane, or bytes without a sentinel that show nothing. -/
theorem cleanLine_cases {l : Line} (hclean : cleanLine l = true) :
    (∃ cols, assemble l = encode (spectrumOf cols) ∧ planesOf l = [compose cols]) ∨
    (SentinelFree (assemble l) ∧ planesOf l = []) := by
  cases l with
  | spectrum cols => exact .inl ⟨cols, rfl, rfl⟩
  | frame f => simp [cleanLine] at hclean
  | byte b => exact .inr ⟨by simpa [cleanLine, assemble, SentinelFree] using hclean, rfl⟩
  | bytes bs => exact .inr ⟨by simpa [cleanLine, assemble, SentinelFree] using hclean, rfl⟩
  | clear => exact .inl ⟨_, rfl, rfl⟩
  | full => exact .inl ⟨_, rfl, rfl⟩
  | bar c h => exact .inl ⟨_, rfl, rfl⟩
  | flush => exact .inr ⟨by simp [assemble, Config.sentinel, SentinelFree], rfl⟩
  | noise bs => exact .inr ⟨by simpa [cleanLine, assemble, SentinelFree] using hclean, rfl⟩

/-- From idle a clean line loads its planes and leaves the synchronizer idle. -/
theorem runBytes_cleanLine {s : State} {l : Line} (hidle : s.index = 0) (hclean : cleanLine l = true) :
    (runBytes s (assemble l)).loads = planesOf l ∧ (runBytes s (assemble l)).state.index = 0 := by
  rcases cleanLine_cases hclean with ⟨cols, hbytes, hplanes⟩ | ⟨hfree, hplanes⟩
  · rw [hbytes, hplanes, runBytes_spectrumOf hidle]
    exact ⟨rfl, rfl⟩
  · rw [hplanes, runBytes_noise hidle hfree]
    exact ⟨rfl, hidle⟩

/-- Settles O19: line by line, each from the idle state the one before leads to. -/
theorem cleanStreamShowsEveryCommand : Obligations.CleanStreamShowsEveryCommand := by
  intro s p hidle hclean
  induction p generalizing s with
  | nil => exact ⟨rfl, hidle⟩
  | cons l p ih =>
    obtain ⟨hline, hrest⟩ := List.forall_mem_cons.mp hclean
    obtain ⟨hloads, hnext⟩ := runBytes_cleanLine hidle hline
    obtain ⟨hmore, hend⟩ := ih _ hnext hrest
    rw [assembleProgram, List.flatMap_cons, List.flatMap_cons, runBytes_append, hloads]
    exact ⟨congrArg (planesOf l ++ ·) hmore, hend⟩

end Sys2Proof.Machine
end

section
/-! PROOFS. What the outputs of a run depend on (R118). -/

namespace Sys2Proof.Machine

/-- Two states with the same index whose buffers hold the same candidate bytes; everything else may differ. -/
def SameCandidate (s t : State) : Prop :=
  s.index = t.index ∧ s.buffer.toList.take s.index.val = t.buffer.toList.take s.index.val

/-- Agreement position by position, as the statement of R118 has it. -/
theorem sameCandidate_of_readBuffer {s t : State} (hindex : s.index = t.index)
    (hbuf : ∀ k : Fin 16, k.val < s.index.val → s.readBuffer k = t.readBuffer k) : SameCandidate s t := by
  refine ⟨hindex, ?_⟩
  apply List.ext_getElem
  · simp
  · intro k hk _
    have hlt : k < s.index.val := by simp at hk; omega
    have hread := hbuf ⟨k, by omega⟩ hlt
    rw [readBuffer_eq_getElem_toList, readBuffer_eq_getElem_toList] at hread
    rw [List.getElem_take, List.getElem_take]
    exact hread

theorem sameCandidate_idle {s t : State} (hs : s.index = 0) (ht : t.index = 0) : SameCandidate s t := by
  refine ⟨hs.trans ht.symm, ?_⟩
  rw [hs]
  rfl

theorem sameCandidate_storeAt {s t : State} (h : SameCandidate s t) (b : Byte) (hlt : s.index.val + 1 < 15)
    (hlt' : t.index.val + 1 < 15) :
    SameCandidate ((s.storeAt (slotOf s.index) b).setIndex ⟨s.index.val + 1, hlt⟩)
      ((t.storeAt (slotOf t.index) b).setIndex ⟨t.index.val + 1, hlt'⟩) := by
  obtain ⟨hindex, hbuf⟩ := h
  refine ⟨Fin.ext (by simp [hindex]), ?_⟩
  have htake := take_storeAt_slotOf t b
  rw [← hindex] at htake
  rw [State.setIndex_index, State.setIndex_buffer, State.setIndex_buffer, take_storeAt_slotOf, ← hindex, htake, hbuf]

/-- From the same candidate a step gives the same tag and the same load, and leads to the same candidate. -/
theorem decoderStep_sameCandidate {s t : State} (h : SameCandidate s t) (b : Byte) :
    (decoderStep s b).tag = (decoderStep t b).tag ∧ (decoderStep s b).load = (decoderStep t b).load ∧
      SameCandidate (decoderStep s b).state (decoderStep t b).state := by
  obtain ⟨hindex, hbuf⟩ := id h
  by_cases h0 : s.index.val = 0
  · have h0' : t.index.val = 0 := by rw [← hindex]; exact h0
    by_cases hb : b = Config.sentinel
    · have hstore := sameCandidate_storeAt h b (by omega) (by omega)
      have hs : slotOf s.index = sentinelSlot := Fin.ext h0
      have ht : slotOf t.index = sentinelSlot := Fin.ext h0'
      simp only [hs, ht, h0, h0'] at hstore
      rw [decoderStep_start h0 hb, decoderStep_start h0' hb]
      exact ⟨rfl, rfl, hstore⟩
    · rw [decoderStep_discard h0 hb, decoderStep_discard h0' hb]
      exact ⟨rfl, rfl, h⟩
  · have h0' : t.index.val ≠ 0 := by rw [← hindex]; exact h0
    by_cases hlt : s.index.val + 1 < 15
    · have hlt' : t.index.val + 1 < 15 := by rw [← hindex]; exact hlt
      rw [decoderStep_append h0 hlt, decoderStep_append h0' hlt']
      exact ⟨rfl, rfl, sameCandidate_storeAt h b hlt hlt'⟩
    · have h14 : s.index.val = 14 := by omega
      have h14' : t.index.val = 14 := by rw [← hindex]; exact h14
      rw [h14] at hbuf
      have hcols : columnsOf s.buffer = columnsOf t.buffer := by
        rw [← Vector.toList_inj, toList_columnsOf, toList_columnsOf, hbuf]
      by_cases hx : xorAcc (s.buffer.toList.take 14) = b
      · have hx' : xorAcc (t.buffer.toList.take 14) = b := by rw [← hbuf]; exact hx
        rw [decoderStep_of_match h14 hx, decoderStep_of_match h14' hx', hcols]
        exact ⟨rfl, rfl, sameCandidate_idle rfl rfl⟩
      · have hx' : xorAcc (t.buffer.toList.take 14) ≠ b := by rw [← hbuf]; exact hx
        rw [decoderStep_of_mismatch h14 hx, decoderStep_of_mismatch h14' hx']
        exact ⟨rfl, rfl, sameCandidate_idle rfl rfl⟩

theorem runBytes_sameCandidate {s t : State} (h : SameCandidate s t) (bs : List Byte) :
    (runBytes s bs).tags = (runBytes t bs).tags ∧ (runBytes s bs).loads = (runBytes t bs).loads ∧
      SameCandidate (runBytes s bs).state (runBytes t bs).state := by
  induction bs generalizing s t with
  | nil => exact ⟨rfl, rfl, h⟩
  | cons b bs ih =>
    obtain ⟨htag, hload, hnext⟩ := decoderStep_sameCandidate h b
    obtain ⟨htags, hloads, hend⟩ := ih hnext
    simp only [runBytes_cons, htag, hload, htags, hloads]
    exact ⟨trivial, trivial, hend⟩

/-- Settles O20: a run carries the same candidate along, byte by byte. -/
theorem loadsDependOnIndexAndBytesAlone : Obligations.LoadsDependOnIndexAndBytesAlone := by
  intro s t bs hindex hbuf
  obtain ⟨htags, hloads, hend, -⟩ := runBytes_sameCandidate (sameCandidate_of_readBuffer hindex hbuf) bs
  exact ⟨htags, hloads, hend⟩

end Sys2Proof.Machine
end

section
/-! PROOFS. What the checksum catches (R91, R92). -/

namespace Sys2Proof.Machine

/-- Overwriting one byte changes the accumulation by the old and the new byte. -/
theorem xorAcc_set {bs : List Byte} {k : Nat} (hk : k < bs.length) (b : Byte) :
    xorAcc (bs.set k b) = xorAcc bs ^^^ (bs[k] ^^^ b) := by
  induction bs generalizing k with
  | nil => simp at hk
  | cons d bs ih =>
    cases k with
    | zero =>
      have hcancel : d ^^^ xorAcc bs ^^^ (d ^^^ b) = d ^^^ d ^^^ (xorAcc bs ^^^ b) := by ac_rfl
      rw [List.set_cons_zero, xorAcc_cons, xorAcc_cons, List.getElem_cons_zero, hcancel, BitVec.xor_self,
        BitVec.zero_xor, BitVec.xor_comm]
    | succ k =>
      rw [List.set_cons_succ, xorAcc_cons, xorAcc_cons, List.getElem_cons_succ, ih (by simpa using hk),
        BitVec.xor_assoc]

/-- The same of the 15 bytes of a frame. -/
theorem xorAcc_toList_set (f : Frame) (k : Fin 15) (b : Byte) :
    xorAcc (f.set k.val b).toList = xorAcc f.toList ^^^ (f[k] ^^^ b) := by
  rw [Vector.toList_set, xorAcc_set (by simp), Vector.getElem_toList]
  rfl

/-- Settles O22: all 15 bytes cancel exactly when the last differs from the XOR of the others by 0. -/
theorem validatorAcceptsOnlyTheXor : Obligations.ValidatorAcceptsOnlyTheXor := by
  intro p k
  have hxor : xorAcc (p.push (xorAcc p.toList ^^^ k)).toList = k := by
    rw [Vector.toList_push, xorAcc_append, xorAcc_cons, xorAcc_nil, BitVec.xor_zero, ← BitVec.xor_assoc,
      BitVec.xor_self, BitVec.zero_xor]
  rw [validate_iff_xorAcc_eq_zero, hxor]

/-- Settles O24: in a valid frame the bytes cancel; one change leaves the XOR of the two bytes, two equal changes
cancel again. -/
theorem singleByteChangeIsCaught : Obligations.SingleByteChangeIsCaught := by
  intro f hvalid
  rw [validate_iff_xorAcc_eq_zero] at hvalid
  refine ⟨fun k b hne => ?_, fun j k x hjk => ?_⟩
  · rw [Bool.eq_false_iff, ne_eq, validate_iff_xorAcc_eq_zero, xorAcc_toList_set, hvalid, BitVec.zero_xor,
      BitVec.xor_eq_zero_iff]
    exact fun h => hne h.symm
  · have hother : (f.set j.val (f[j] ^^^ x))[k] = f[k] := Vector.getElem_set_ne _ _ (fun h => hjk (Fin.ext h))
    have hchange : ∀ d : Byte, d ^^^ (d ^^^ x) = x := fun d => by
      rw [← BitVec.xor_assoc, BitVec.xor_self, BitVec.zero_xor]
    rw [validate_iff_xorAcc_eq_zero, xorAcc_toList_set, xorAcc_toList_set, hother, hchange, hchange, hvalid,
      BitVec.zero_xor, BitVec.xor_self]

end Sys2Proof.Machine
end

section
/-! PROOFS. Consequences of the composition: where a pixel is sent, how many bits are lit, order freedom, and what two
frames with the same plane have in common (R102 to R105). -/

namespace Sys2Proof.Machine

/-- The place of a pixel in a plane: row-major, most significant bit first (R29 to R31). -/
theorem lit_eq_getLsbD (plane : Bitplane) (r : Fin 8) (c : Fin 13) :
    lit plane r c =
      (plane[(13 * r.val + c.val) / 32]'(by omega)).getLsbD (31 - (13 * r.val + c.val) % 32) := by
  have hword : wordIndex (bitIndex r.val c.val) = (13 * r.val + c.val) / 32 := by
    simp only [wordIndex, bitIndex, Config.wordBits, Config.ncols]
    omega
  have hbit : bitPos (bitIndex r.val c.val) = 31 - (13 * r.val + c.val) % 32 := by
    simp only [bitPos, bitIndex, Config.wordBits, Config.ncols]
    omega
  have hlt : (13 * r.val + c.val) / 32 < 4 := by omega
  simp only [lit, planeBit, hword, hbit, dif_pos hlt]

/-- Settles O25: the pixel under its height, read at its place in the plane. -/
theorem pixelLitIffUnderItsHeight : Obligations.PixelLitIffUnderItsHeight := by
  intro cols r c
  rw [← lit_eq_getLsbD]
  exact ⟨lit_compose cols r c, lit_compose cols r c⟩

/-! ### Counting the bits -/

/-- Distinct height units of a bar are distinct bits: none is above row 0. -/
theorem nodup_barBits {m : Nat} (c : Fin 13) (hm : m ≤ 8) : (barBits c.val m).Nodup := by
  refine List.Nodup.map_on ?_ List.nodup_range
  intro h hh h' hh' hbit
  have hrow := (bitIndex_inj.mp hbit).1
  rw [List.mem_range] at hh hh'
  simp only [rowOf, Config.nrows] at hrow
  omega

/-- No bit is set twice by a composition: bars of distinct columns are disjoint. -/
theorem nodup_litBits (cols : Columns) : (litBits cols).Nodup := by
  refine List.nodup_flatMap.mpr ⟨fun c _ => nodup_barBits c (clampHeight_le _), ?_⟩
  refine (List.nodup_finRange 13).imp ?_
  intro c c' hne q hq hq'
  obtain ⟨h, -, hbit⟩ := mem_barBits.mp hq
  obtain ⟨h', -, hbit'⟩ := mem_barBits.mp hq'
  exact hne (bitIndex_inj.mp (hbit.trans hbit'.symm)).2

theorem toList_eq_map_finRange (cols : Columns) : cols.toList = (List.finRange 13).map (fun c : Fin 13 => cols[c]) := by
  apply List.ext_getElem
  · simp
  · intro k _ _
    simp

theorem length_litBits (cols : Columns) : (litBits cols).length = (cols.toList.map clampHeight).sum := by
  rw [litBits, List.length_flatMap, toList_eq_map_finRange, List.map_map]
  simp only [barBits, List.length_map, List.length_range]
  rfl

/-- The one bits of a composed plane are the bits the composition sets, each once. -/
theorem countP_planeBit_compose (cols : Columns) :
    (List.range 128).countP (fun p => planeBit (compose cols) p) = (litBits cols).length := by
  simp only [planeBit_compose]
  rw [List.countP_eq_length_filter]
  refine List.Perm.length_eq ((List.perm_ext_iff_of_nodup (List.nodup_range.filter _) (nodup_litBits cols)).mpr ?_)
  intro q
  rw [List.mem_filter, List.mem_range, decide_eq_true_eq, and_iff_right_iff_imp]
  exact fun hq => (lt_of_mem_litBits hq).trans (by decide)

/-- Settles O27: one bit for each unit of each clamped height, and 13 heights of at most 8. -/
theorem oneBitsCountTheHeights : Obligations.OneBitsCountTheHeights := by
  intro cols
  refine ⟨(countP_planeBit_compose cols).trans (length_litBits cols), ?_⟩
  have hbound : ∀ m ∈ cols.toList.map clampHeight, m ≤ 8 := by
    intro m hm
    obtain ⟨v, -, rfl⟩ := List.mem_map.mp hm
    exact clampHeight_le v
  exact (List.sum_le_card_nsmul _ 8 hbound).trans_eq (by simp)

/-! ### Order freedom -/

/-- Settles O28: a plane is its bits, and both ways set exactly the bits of the visited units. -/
theorem compositionIsOrderFree : Obligations.CompositionIsOrderFree := by
  intro cols visits hvisits
  apply plane_ext
  intro q hq
  have hmem : q ∈ visits.map (fun v => (7 - v.2) * 13 + v.1.val) ↔ q ∈ litBits cols := by
    simp only [List.mem_map, Prod.exists, hvisits, mem_litBits]
    exact ⟨fun ⟨c, h, hh, e⟩ => ⟨c, h, hh, e⟩, fun ⟨c, h, hh, e⟩ => ⟨c, h, hh, e⟩⟩
  rw [← List.foldl_map, planeBit_foldl_setBit, planeBit_compose, planeBit_emptyPlane, Bool.false_or,
    decide_eq_true hq, Bool.and_true, decide_eq_decide]
  exact hmem

/-! ### The clamped heights -/

/-- The lit rows of a column tell its clamped height. -/
theorem clampHeight_eq_of_lit_eq {cols cols' : Columns} {c : Fin 13}
    (hlit : ∀ r : Fin 8, lit (compose cols) r c = lit (compose cols') r c) :
    clampHeight cols[c] = clampHeight cols'[c] := by
  have hle := clampHeight_le cols[c]
  have hle' := clampHeight_le cols'[c]
  have hrows : ∀ r, r < 8 → (8 - clampHeight cols[c] ≤ r ↔ 8 - clampHeight cols'[c] ≤ r) := by
    intro r hr
    have hrow := hlit ⟨r, hr⟩
    rwa [lit_compose, lit_compose, decide_eq_decide] at hrow
  rcases Nat.lt_trichotomy (clampHeight cols[c]) (clampHeight cols'[c]) with hlt | heq | hgt
  · have htop := hrows (8 - clampHeight cols'[c]) (by omega)
    omega
  · exact heq
  · have htop := hrows (8 - clampHeight cols[c]) (by omega)
    omega

/-- Settles O30: the lit rows tell the clamped heights, and the composition reads nothing else. -/
theorem clampedHeightsDecideThePlane : Obligations.ClampedHeightsDecideThePlane := by
  intro cols cols'
  refine ⟨fun hplane c => clampHeight_eq_of_lit_eq fun r => ?_, fun h => compose_eq_of_clampHeight_eq h⟩
  rw [hplane]

end Sys2Proof.Machine
end

section
/-! PROOFS. Assembled lines and placed table words (R61, R62; log 14, 15). -/

namespace Sys2Proof.Machine

/-! ### Assembled lines -/

/-- The operands of BAR accumulate to its height. -/
theorem xorAcc_barColumns (c : Fin 13) (h : Byte) : xorAcc (barColumns c h).toList = h := by
  have hzero : xorAcc (Vector.replicate 13 (0#8 : Byte)).toList = 0#8 := by decide
  rw [barColumns_eq_set, Vector.toList_set, xorAcc_set (by simp), hzero, Vector.getElem_toList,
    Vector.getElem_replicate, BitVec.zero_xor, BitVec.zero_xor]

theorem toList_barColumns (c : Fin 13) (h : Byte) :
    (barColumns c h).toList = (List.range 13).map (fun k => if k = c.val then h else 0#8) := by
  apply List.ext_getElem
  · simp
  · intro k _ _
    simp [barColumns, Fin.ext_iff]

/-- SPECTRUM assembles to the sentinel, the columns and their checksum (R53). -/
theorem encode_spectrumOf (cols : Columns) :
    encode (spectrumOf cols) = Config.sentinel :: cols.toList ++ [Config.sentinel ^^^ xorAcc cols.toList] := by
  rw [spectrumOf, encode_spectrum, checksumOf, xorAcc_cons]

/-- Settles O35: the fixed lines are evaluated; SPECTRUM and BAR by their checksums. -/
theorem notationAssembles : Obligations.NotationAssembles := by
  refine ⟨by decide, by decide, by decide, rfl, fun cols => ⟨?_, ?_⟩, fun f b bs => ⟨rfl, rfl, rfl, rfl⟩,
    fun c h => ?_⟩
  · exact Laws.EncodeSize.spectrum cols (checksumOf cols)
  · exact (encode_spectrumOf cols).trans (by rw [foldl_xor_eq]; rfl)
  · refine (encode_spectrumOf (barColumns c h)).trans ?_
    rw [xorAcc_barColumns, toList_barColumns]
    rfl

/-! ### Placed words -/

theorem selectIndex_index (s : State) (i : Index) : (selectIndex s i).index = i := by
  unfold selectIndex
  split
  · assumption
  · split <;> rfl

/-- Selecting an index touches neither the command stream nor the agenda. -/
theorem selectIndex_frame (s : State) (i : Index) :
    (selectIndex s i).cmdIn = s.cmdIn ∧ (selectIndex s i).agenda = s.agenda := by
  unfold selectIndex
  split
  · exact ⟨rfl, rfl⟩
  · split <;> exact ⟨rfl, rfl⟩

theorem length_encode (ins : Instr) : (encode ins).length = ins.size := by
  cases ins with
  | spectrum cols ck => exact Laws.EncodeSize.spectrum cols ck
  | start | discard | append | complete => rfl

/-- How many bytes are read at a grain. -/
theorem size_of_grain (ins : Instr) : ins.size = if ins.grain = .byte then 1 else 15 := by
  cases ins <;> rfl

theorem length_tableBytes (nbits w : Nat) :
    (tableBytes nbits w).length = if tableGrain nbits = .byte then 1 else 15 := by
  unfold tableBytes tableGrain
  split
  · rfl
  · simp [tableFrameBytes]

/-- Without the fallback, what is read is of the grain asked for, and the decoder of the machine reads the same. -/
theorem decode_of_decodeAtGrain {g : Grain} {i : Index} {bs rest : List Byte} {ins : Instr}
    (h : decodeAtGrain g i bs = .ok (ins, rest)) : ins.grain = g ∧ decode g i bs = .ok (ins, rest) := by
  cases g with
  | byte =>
    obtain ⟨b, -, rfl⟩ := decodeByte_ok_iff.mp h
    exact ⟨(classify_spec i b).1, h⟩
  | command =>
    obtain ⟨cols, ck, rfl, -⟩ := encode_of_decodeFrame h
    exact ⟨rfl, decode_command_of_frame h⟩

/-- The instruction read from a table word is of the word's grain, takes its row at the word's index, and has the
word's bytes as its encoding. -/
theorem decodeTableWord_some {nbits w : Nat} {ins : Instr} (h : decodeTableWord nbits w = some ins) :
    ins.grain = tableGrain nbits ∧ ins.takenAt (tableIndex nbits w) = true ∧
      (ins.wf = true ∨ ∃ cols ck, ins = .spectrum cols ck) ∧ encode ins = tableBytes nbits w := by
  obtain ⟨rest, hread⟩ : ∃ rest, decodeAtGrain (tableGrain nbits) (tableIndex nbits w) (tableBytes nbits w) =
      .ok (ins, rest) := by
    unfold decodeTableWord at h
    split at h
    · rename_i hok
      cases h
      exact ⟨_, hok⟩
    · cases h
  obtain ⟨hgrain, hdec⟩ := decode_of_decodeAtGrain hread
  obtain ⟨hbytes, htaken, hwf⟩ := (encodeOfDecode _ _ _).1 _ _ hdec
  have hlen : (encode ins).length = (tableBytes nbits w).length := by
    rw [length_encode, size_of_grain, length_tableBytes, hgrain]
  refine ⟨hgrain, htaken, ?_, ?_⟩
  · cases ins with
    | spectrum cols ck => exact .inr ⟨cols, ck, rfl⟩
    | start | discard | append | complete => exact .inl (hwf rfl)
  · have hrest : rest = [] := by
      have htotal := congrArg List.length hbytes
      rw [List.length_append, hlen] at htotal
      exact List.eq_nil_of_length_eq_zero (by omega)
    rwa [hrest, List.append_nil] at hbytes

/-- Settles O34: the word's bytes in front of the stream decode to its instruction (O31), and consuming them leaves
the streams and the agenda as they were. -/
theorem placedWordRunsNext : Obligations.PlacedWordRunsNext := by
  intro s nbits w ins hword
  obtain ⟨hgrain, htaken, hwf, hbytes⟩ := decodeTableWord_some hword
  obtain ⟨hcmd, hagenda⟩ := selectIndex_frame s (tableIndex nbits w)
  have hdec : decode (tableGrain nbits) (selectIndex s (tableIndex nbits w)).index (tableBytes nbits w ++ s.cmdIn) =
      .ok (ins, s.cmdIn) := by
    rw [selectIndex_index, ← hbytes, ← hgrain]
    exact decodeOfEncode ins _ s.cmdIn htaken hwf
  rw [State.withFetchWord, placeWord, step_move, takeMove_moveOf, decoderTurn_of_ok hdec, ← hcmd, ← hagenda]
  rfl

end Sys2Proof.Machine
end

section
/-! PROOFS. Runs of the machine: every interleaving of the two agents, the free-running loop, relay transparency, and
SPECTRUM as its 15 byte steps (R42, R70, R113, R116, R157). -/

namespace Sys2Proof.Machine

/-! ### The effect of the agents' turns, whatever their order -/

/-- s after d decoder turns and r relay turns at the grain of a byte, while the output can take bytes. -/
def State.afterTurns (s : State) (d r : Nat) : State :=
  { (runBytes s (s.cmdIn.take d)).state with
    cmdIn := s.cmdIn.drop d
    sensorIn := s.sensorIn.drop r
    hostOut := s.hostOut ++ s.sensorIn.take r }

/-- Decoder turns alone are a run over the bytes they consume. -/
theorem afterTurns_decoder (s : State) (d : Nat) :
    s.afterTurns d 0 = (runBytes s (s.cmdIn.take d)).state.setCmdIn (s.cmdIn.drop d) := by
  obtain ⟨-, hsensor, -, hout, -⟩ := runBytes_frame s (s.cmdIn.take d)
  apply State.ext <;> simp [State.afterTurns, hsensor, hout]

/-- Relay turns alone leave the decoder's part. -/
theorem afterTurns_relay (s : State) (r : Nat) :
    s.afterTurns 0 r = { s with sensorIn := s.sensorIn.drop r, hostOut := s.hostOut ++ s.sensorIn.take r } := rfl

theorem afterTurns_zero (s : State) : s.afterTurns 0 0 = s := by
  rw [afterTurns_relay, List.take_zero, List.append_nil]
  rfl

/-- The decoder's part after turns is that of the run. -/
theorem afterTurns_eq_onto (s : State) (d r : Nat) :
    s.afterTurns d r = (runBytes s (s.cmdIn.take d)).state.onto (s.afterTurns d r) := rfl

/-- Turns after turns are turns: the decoder's run goes on where it stopped, and so does the relay. -/
theorem afterTurns_afterTurns (s : State) (d r d' r' : Nat) :
    (s.afterTurns d r).afterTurns d' r' = s.afterTurns (d + d') (r + r') := by
  have hrun : runBytes (s.afterTurns d r) ((s.cmdIn.drop d).take d') =
      ⟨(runBytes s (s.cmdIn.take (d + d'))).state.onto (s.afterTurns d r),
        (runBytes (runBytes s (s.cmdIn.take d)).state ((s.cmdIn.drop d).take d')).tags,
        (runBytes (runBytes s (s.cmdIn.take d)).state ((s.cmdIn.drop d).take d')).loads⟩ := by
    rw [afterTurns_eq_onto, runBytes_onto, List.take_add, runBytes_append]
    rfl
  obtain ⟨-, -, hready, -, hagenda, hpicks, hresets⟩ := runBytes_frame s (s.cmdIn.take d)
  obtain ⟨-, -, hready', -, hagenda', hpicks', hresets'⟩ := runBytes_frame s (s.cmdIn.take (d + d'))
  have hrelayed : s.sensorIn.take (r + r') = s.sensorIn.take r ++ (s.sensorIn.drop r).take r' := List.take_add
  rw [State.afterTurns, show (s.afterTurns d r).cmdIn = s.cmdIn.drop d from rfl, hrun]
  apply State.ext <;>
    simp [State.afterTurns, State.onto, hready, hagenda, hpicks, hresets, hready', hagenda', hpicks', hresets',
      hrelayed]

theorem afterTurns_setAgenda (s : State) (ms : List Move) (d r : Nat) :
    (s.setAgenda ms).afterTurns d r = (s.afterTurns d r).setAgenda ms := by
  rw [State.afterTurns, runBytes_setAgenda]
  rfl

/-! ### One turn -/

/-- A decoder's turn, whether or not a byte waits. -/
theorem decoderTurn_byte_eq (s : State) : decoderTurn .byte s = .next (s.afterTurns 1 0) := by
  rw [afterTurns_decoder]
  cases hcmd : s.cmdIn with
  | nil =>
    rw [decoderTurn_nil hcmd, List.take_nil, List.drop_nil, runBytes_nil, ← hcmd]
    rfl
  | cons b rest => exact decoderTurn_cons hcmd (.inl rfl)

/-- A relay's turn while the output can take a byte, whether or not one waits. -/
theorem relayTurn_eq {s : State} (hready : s.hostReady = true) : relayTurn s = s.afterTurns 0 1 := by
  rw [afterTurns_relay]
  cases hsensor : s.sensorIn with
  | nil =>
    rw [relayTurn_of_blocked (.inl hsensor), List.take_nil, List.drop_nil, List.append_nil, ← hsensor]
  | cons b rest =>
    rw [relayTurn_of_ready hsensor hready]
    rfl

theorem step_decode (s : State) (ms : List Move) :
    step (s.setAgenda (.decode :: ms)) = .next ((s.afterTurns 1 0).setAgenda ms) := by
  rw [step_move, ← afterTurns_setAgenda]
  exact decoderTurn_byte_eq _

theorem step_relay {s : State} (hready : s.hostReady = true) (ms : List Move) :
    step (s.setAgenda (.relay :: ms)) = .next ((s.afterTurns 0 1).setAgenda ms) := by
  rw [step_move, ← afterTurns_setAgenda, takeMove, relayTurn_eq (s := s.setAgenda ms) hready]

/-- Turns leave the output's readiness alone. -/
theorem afterTurns_hostReady (s : State) (d r : Nat) : (s.afterTurns d r).hostReady = s.hostReady := by
  obtain ⟨-, -, hready, -⟩ := runBytes_frame s (s.cmdIn.take d)
  exact hready

/-- Turns at the grain of a byte leave the moves to come alone. -/
theorem afterTurns_agenda (s : State) (d r : Nat) : (s.afterTurns d r).agenda = s.agenda := by
  obtain ⟨-, -, -, -, hagenda, -⟩ := runBytes_frame s (s.cmdIn.take d)
  exact hagenda

/-! ### Interleavings -/

theorem agentTurn_cases {m : Move} (h : isAgentTurn m = true) : m = .decode ∨ m = .relay := by
  cases m with
  | decode => exact .inl rfl
  | relay => exact .inr rfl
  | command | reset | resetWithByte | powerOn | deliverCommand | deliverSensor | hostReady => cases h

/-- A schedule of agents' turns does what it counts of each; readiness matters only where the relay has a turn. -/
theorem run_agentTurns {s : State} {ms : List Move} (rest : List Move) (hready : .relay ∈ ms → s.hostReady = true)
    (hturns : ∀ m ∈ ms, isAgentTurn m = true) :
    Host.Core.run Sys2Proof.core ms.length (s.setAgenda (ms ++ rest)) =
      .next ((s.afterTurns (ms.count .decode) (ms.count .relay)).setAgenda rest) := by
  induction ms generalizing s with
  | nil => rw [List.count_nil, List.count_nil, afterTurns_zero]; rfl
  | cons m ms ih =>
    obtain ⟨hm, hms⟩ := List.forall_mem_cons.mp hturns
    have hnext : ∀ d r, .relay ∈ ms → (s.afterTurns d r).hostReady = true := fun d r hmem =>
      (afterTurns_hostReady s d r).trans (hready (List.mem_cons_of_mem m hmem))
    rcases agentTurn_cases hm with rfl | rfl
    · rw [List.length_cons, List.cons_append, core_run_succ _ (step_decode s (ms ++ rest)), ih (hnext 1 0) hms,
        afterTurns_afterTurns, List.count_cons_self, List.count_cons_of_ne (by decide), Nat.add_comm 1, Nat.zero_add]
    · rw [List.length_cons, List.cons_append, core_run_succ _ (step_relay (hready List.mem_cons_self) (ms ++ rest)),
        ih (hnext 0 1) hms, afterTurns_afterTurns, List.count_cons_self, List.count_cons_of_ne (by decide),
        Nat.add_comm 1, Nat.zero_add]

/-- Settles O40: the effect of a schedule depends only on how many turns each agent has. -/
theorem interleavingsAgree : Obligations.InterleavingsAgree :=
  fun _ _ rest hready hturns => run_agentTurns rest (fun _ => hready) hturns

/-- Decoder turns alone are a run over as many command bytes. -/
theorem run_decoderTurns (s : State) (n : Nat) (rest : List Move) :
    Host.Core.run Sys2Proof.core n (s.setAgenda (List.replicate n .decode ++ rest)) =
      .next (((runBytes s (s.cmdIn.take n)).state.setCmdIn (s.cmdIn.drop n)).setAgenda rest) := by
  have hall : ∀ m ∈ List.replicate n Move.decode, m = .decode := fun m => List.eq_of_mem_replicate
  have hrun := run_agentTurns (s := s) (ms := List.replicate n .decode) rest
    (fun hmem => absurd (hall _ hmem) (by decide)) (fun m hmem => by rw [hall m hmem]; rfl)
  rwa [List.length_replicate, List.count_replicate_self, List.count_replicate, if_neg (by decide),
    afterTurns_decoder] at hrun

/-! ### SPECTRUM byte by byte -/

theorem take_drop_fifteen {cols : Columns} {ck : Byte} {bs rest : List Byte}
    (hcmd : bs = encode (.spectrum cols ck) ++ rest) :
    bs.take 15 = encode (.spectrum cols ck) ∧ bs.drop 15 = rest := by
  have hlen : (encode (.spectrum cols ck)).length = 15 := Laws.EncodeSize.spectrum cols ck
  rw [hcmd]
  exact ⟨List.take_left' hlen, List.drop_left' hlen⟩

/-- Settles O11: all three ways are the run over the frame's bytes, with the frame consumed. -/
theorem spectrumIsItsFifteenByteSteps : Obligations.SpectrumIsItsFifteenByteSteps := by
  intro s cols ck rest ms hcmd
  obtain ⟨htake, hdrop⟩ := take_drop_fifteen hcmd
  refine ⟨((runBytes s (encode (.spectrum cols ck))).state.setCmdIn rest).setAgenda ms, ?_, ?_, fun hidle => ?_⟩
  · rw [exec_spectrum, runBytes_setAgenda, runBytes_setCmdIn]
  · rw [run_decoderTurns, htake, hdrop]
  · rw [step_move, takeMove, decoderTurn_frame (s := s.setAgenda ms) (congrArg Fin.val hidle) hcmd, runBytes_setAgenda]
    rfl

/-- Settles O46: after the reset event the synchronizer is idle, and from idle the frame loads once. -/
theorem frameAfterResetDecodes : Obligations.FrameAfterResetDecodes := by
  intro s cols rest ms hcmd
  obtain ⟨htake, hdrop⟩ := take_drop_fifteen (bs := (resetEvent s).cmdIn) hcmd
  have hreset : step (s.setAgenda (.reset :: (List.replicate 15 .decode ++ ms))) =
      .next ((resetEvent s).setAgenda (List.replicate 15 .decode ++ ms)) := step_move s .reset _
  refine ⟨_, (core_run_succ 15 hreset).trans (run_decoderTurns (resetEvent s) 15 ms), ?_⟩
  rw [htake, hdrop, ← spectrumOf, runBytes_spectrumOf (resetEvent_index s)]
  exact ⟨rfl, rfl, rfl, rfl, rfl⟩

/-! ### The free-running loop -/

/-- s with another count of free choices, which only the next free choice reads (log 3). -/
def State.setPicks (s : State) (p : Nat) : State := { s with picks := p }

/-- Choices counted or not, turns do the same. -/
theorem afterTurns_setPicks (s : State) (p d r : Nat) :
    (s.setPicks p).afterTurns d r = (s.afterTurns d r).setPicks p := by
  rw [State.afterTurns, show s.setPicks p = s.onto (s.setPicks p) from rfl, runBytes_onto]
  obtain ⟨-, -, hready, -, hagenda, -, hresets⟩ := runBytes_frame s (s.cmdIn.take d)
  apply State.ext <;> simp [State.afterTurns, State.onto, State.setPicks, hready, hagenda, hresets]

/-- While a byte waits, a free turn consumes one, of either link. -/
theorem freeTurn_consumes {s : State} (hready : s.hostReady = true) (hwait : ¬ Quiescent s) :
    ∃ p, (s.cmdIn ≠ [] ∧ freeTurn s = .next ((s.setPicks p).afterTurns 1 0)) ∨
      (s.sensorIn ≠ [] ∧ freeTurn s = .next ((s.setPicks p).afterTurns 0 1)) := by
  by_cases hsensor : s.sensorIn = []
  · have hcmd : s.cmdIn ≠ [] := fun hcmd => hwait ⟨hcmd, hsensor⟩
    exact ⟨s.picks, .inl ⟨hcmd, (freeTurn_of_sensorIn_nil hsensor).trans (decoderTurn_byte_eq s)⟩⟩
  · by_cases hcmd : s.cmdIn = []
    · exact ⟨s.picks, .inr ⟨hsensor, (freeTurn_of_cmdIn_nil hcmd hsensor).trans (congrArg _ (relayTurn_eq hready))⟩⟩
    · refine ⟨s.picks + 1, ?_⟩
      rw [freeTurn_of_both hcmd hsensor, decoderTurn_byte_eq, relayTurn_eq (s := s.countPick) hready]
      split
      · exact .inr ⟨hsensor, rfl⟩
      · exact .inl ⟨hcmd, rfl⟩

/-- As many free turns as bytes wait consume them all, however the choices fall. -/
theorem run_free {n : Nat} {s : State} (hagenda : s.agenda = []) (hready : s.hostReady = true)
    (hn : s.cmdIn.length + s.sensorIn.length = n) :
    ∃ p, Host.Core.run Sys2Proof.core n s = .next ((s.afterTurns s.cmdIn.length s.sensorIn.length).setPicks p) := by
  induction n generalizing s with
  | zero =>
    have hcmd : s.cmdIn.length = 0 := by omega
    have hsensor : s.sensorIn.length = 0 := by omega
    rw [hcmd, hsensor, afterTurns_zero]
    exact ⟨s.picks, rfl⟩
  | succ n ih =>
    have hwait : ¬ Quiescent s := by
      rintro ⟨hcmd, hsensor⟩
      simp [hcmd, hsensor] at hn
    have hgoes_on : ∀ d r p, (s.cmdIn.drop d).length + (s.sensorIn.drop r).length = n →
        d + (s.cmdIn.drop d).length = s.cmdIn.length → r + (s.sensorIn.drop r).length = s.sensorIn.length →
        ∃ q, Host.Core.run Sys2Proof.core n ((s.setPicks p).afterTurns d r) =
          .next ((s.afterTurns s.cmdIn.length s.sensorIn.length).setPicks q) := by
      intro d r p hleft hd hr
      obtain ⟨q, hrun⟩ := ih ((afterTurns_agenda (s.setPicks p) d r).trans hagenda)
        ((afterTurns_hostReady (s.setPicks p) d r).trans hready) hleft
      have hall : ((s.setPicks p).afterTurns d r).afterTurns (s.cmdIn.drop d).length (s.sensorIn.drop r).length =
          (s.afterTurns s.cmdIn.length s.sensorIn.length).setPicks p := by
        rw [afterTurns_afterTurns, hd, hr, afterTurns_setPicks]
      have hend := congrArg (fun u : State => u.setPicks q) hall
      exact ⟨q, hrun.trans (congrArg Host.Outcome.next hend)⟩
    obtain ⟨p, ⟨hcmd, hturn⟩ | ⟨hsensor, hturn⟩⟩ := freeTurn_consumes hready hwait
    · have hpos := List.length_pos_of_ne_nil hcmd
      rw [core_run_succ n ((step_of_agenda_nil hagenda).trans hturn)]
      exact hgoes_on 1 0 p (by simp; omega) (by simp; omega) (by simp)
    · have hpos := List.length_pos_of_ne_nil hsensor
      rw [core_run_succ n ((step_of_agenda_nil hagenda).trans hturn)]
      exact hgoes_on 0 1 p (by simp; omega) (by simp) (by simp; omega)

/-- Settles O41: all turns taken, nothing is left on either link, and the decoder has run over all its bytes. -/
theorem freeLoopConsumesEverything : Obligations.FreeLoopConsumesEverything := by
  intro s hagenda hready
  obtain ⟨p, hrun⟩ := run_free hagenda hready rfl
  have hcmd : s.cmdIn.take s.cmdIn.length = s.cmdIn := List.take_length
  have hsensor : s.sensorIn.take s.sensorIn.length = s.sensorIn := List.take_length
  refine ⟨_, hrun, ⟨List.drop_length, List.drop_length⟩, congrArg (s.hostOut ++ ·) hsensor, ?_⟩
  rw [State.afterTurns, hcmd]
  exact ⟨runBytes_loads s s.cmdIn, rfl, rfl, rfl⟩

/-- Settles O42: a free turn with nothing waiting is a decoder's turn that reads nothing. -/
theorem nothingHappensWithoutBytes : Obligations.NothingHappensWithoutBytes := by
  intro s n hagenda hquiet
  obtain ⟨hcmd, hsensor⟩ := hquiet
  have hstep : step s = .next s := by
    rw [step_of_agenda_nil hagenda, freeTurn_of_sensorIn_nil hsensor, decoderTurn_nil hcmd]
  induction n with
  | zero => rfl
  | succ n ih => rw [core_run_succ n hstep, ih]

/-! ### Relay transparency (R70) -/

/-- The relay's side of two states is the same: what waits on the sensor link, the output and its readiness. -/
def SameRelaySide (s t : State) : Prop :=
  t.sensorIn = s.sensorIn ∧ t.hostReady = s.hostReady ∧ t.hostOut = s.hostOut

theorem decoderTurn_relaySide (g : Grain) (s : State) :
    ∃ t, decoderTurn g s = .next t ∧ SameRelaySide s t ∧ t.agenda = s.agenda := by
  obtain ⟨bs, rest, -, hrun⟩ := decoderTurn_eq_run g s
  obtain ⟨-, hsensor, hready, hout, hagenda, -⟩ := runBytes_frame s bs
  exact ⟨_, hrun, ⟨hsensor, hready, hout⟩, hagenda⟩

/-- Command traffic and resets leave the relay's side alone (R67, R144). -/
theorem takeMove_relaySide {m : Move} (hm : isRelayOrCommandTraffic m = true) (hrelay : m ≠ .relay) (s : State) :
    ∃ t, takeMove m s = .next t ∧ SameRelaySide s t ∧ t.agenda = s.agenda := by
  cases m with
  | decode => exact decoderTurn_relaySide .byte s
  | command => exact decoderTurn_relaySide .command s
  | relay => exact absurd rfl hrelay
  | reset | resetWithByte | deliverCommand => exact ⟨_, rfl, ⟨rfl, rfl, rfl⟩, rfl⟩
  | powerOn | deliverSensor | hostReady => cases hm

/-- Settles O39: each relay turn moves the first byte that waits, and no other turn touches the relay's side. -/
theorem relayIsTransparent : Obligations.RelayIsTransparent := by
  intro s ms rest hready htraffic hcount
  induction ms generalizing s with
  | nil =>
    have hsensor : s.sensorIn = [] := List.eq_nil_of_length_eq_zero hcount.symm
    exact ⟨_, rfl, by simp [hsensor], hsensor⟩
  | cons m ms ih =>
    obtain ⟨hm, hms⟩ := List.forall_mem_cons.mp htraffic
    by_cases hrelay : m = .relay
    · subst hrelay
      rw [List.count_cons_self] at hcount
      obtain ⟨b, more, hsensor⟩ := List.exists_cons_of_ne_nil (l := s.sensorIn)
        (List.ne_nil_of_length_pos (by omega))
      obtain ⟨t, hrun, hout, hdone⟩ := ih (s.afterTurns 0 1) hready hms
        (by rw [afterTurns_relay, hsensor]; rw [hsensor] at hcount; simpa using hcount)
      refine ⟨t, (core_run_succ _ (step_relay hready (ms ++ rest))).trans hrun, ?_, hdone⟩
      rw [hout, afterTurns_relay, hsensor]
      simp
    · obtain ⟨u, hstep, ⟨hsensor, hready', hout'⟩, hagenda⟩ := takeMove_relaySide hm hrelay (s.setAgenda (ms ++ rest))
      rw [List.count_cons_of_ne hrelay] at hcount
      obtain ⟨t, hrun, hout, hdone⟩ := ih u (hready'.trans hready) hms (by rw [hsensor]; exact hcount)
      have hu : u.setAgenda (ms ++ rest) = u := by
        rw [show ms ++ rest = u.agenda from hagenda.symm]
        rfl
      rw [hu] at hrun
      refine ⟨t, (core_run_succ _ ((step_move s m (ms ++ rest)).trans hstep)).trans hrun, ?_, hdone⟩
      rw [hout, hout', hsensor]
      rfl

end Sys2Proof.Machine
end

section
/-! PROOFS. When the display changes (R108, R110). -/

namespace Sys2Proof.Machine

/-- The frame shown and the loads are as before. -/
def DisplayKept (s t : State) : Prop := t.shown = s.shown ∧ t.loads = s.loads

/-- A byte was consumed at index 14 that completes a valid candidate, and its plane was loaded and shown. -/
def LoadsCandidate (s t : State) : Prop :=
  ∃ (b : Byte) (rest : List Byte), s.index.val = 14 ∧ s.cmdIn = b :: rest ∧ t.cmdIn = rest ∧
    xorAcc (s.buffer.toList.take 14) = b ∧
    t.loads = s.loads ++ [compose (columnsOf s.buffer)] ∧ t.shown = compose (columnsOf s.buffer)

/-- A whole valid frame was consumed while idle, and its plane was loaded and shown. -/
def LoadsFrame (s t : State) : Prop :=
  ∃ (cols : Columns) (rest : List Byte), s.index = 0 ∧ s.cmdIn = encode (spectrumOf cols) ++ rest ∧
    t.cmdIn = rest ∧ t.loads = s.loads ++ [compose cols] ∧ t.shown = compose cols

/-- A decoder's turn of one byte with the checksum that matches does load (R110). -/
theorem decoderTurn_completes {g : Grain} {s : State} {b : Byte} {rest : List Byte} (hi : s.index.val = 14)
    (hcmd : s.cmdIn = b :: rest) (hx : xorAcc (s.buffer.toList.take 14) = b) :
    ∃ t, decoderTurn g s = .next t ∧ t.index = 0 ∧ t.cmdIn = rest ∧
      t.loads = s.loads ++ [compose (columnsOf s.buffer)] ∧ t.shown = compose (columnsOf s.buffer) := by
  refine ⟨_, decoderTurn_cons hcmd (.inr (by omega)), ?_⟩
  simp [decoderStep_of_match hi hx]

/-- An idle turn at the grain of a command over a valid frame does load. -/
theorem decoderTurn_loads_frame {s : State} {cols : Columns} {rest : List Byte} (hidle : s.index = 0)
    (hcmd : s.cmdIn = encode (spectrumOf cols) ++ rest) :
    ∃ t, decoderTurn .command s = .next t ∧ t.index = 0 ∧ t.cmdIn = rest ∧
      t.loads = s.loads ++ [compose cols] ∧ t.shown = compose cols := by
  refine ⟨_, decoderTurn_frame (congrArg Fin.val hidle) hcmd, ?_⟩
  rw [← spectrumOf, runBytes_spectrumOf hidle]
  exact ⟨rfl, rfl, rfl, rfl⟩

/-- A step on a byte that completes no valid candidate keeps the display. -/
theorem decoderStep_display_of_not_valid {s : State} {b : Byte}
    (h : ¬(s.index.val = 14 ∧ xorAcc (s.buffer.toList.take 14) = b)) :
    DisplayKept s (decoderStep s b).state := by
  by_cases hi : s.index.val = 14
  · rw [decoderStep_of_mismatch hi (fun hx => h ⟨hi, hx⟩)]
    exact ⟨rfl, rfl⟩
  · exact decoderStep_display_of_ne_fourteen hi

/-- A decoder's turn changes the display in these two ways only. -/
theorem decoderTurn_display {g : Grain} {s t : State} (h : decoderTurn g s = .next t) :
    DisplayKept s t ∨ LoadsCandidate s t ∨ (g = .command ∧ LoadsFrame s t) := by
  rcases decoderTurn_cases g s with ⟨-, e⟩ | ⟨b, rest, hcmd, e⟩ | ⟨cols, ck, rest, rfl, hi, hcmd, e⟩
  · obtain rfl := Host.Outcome.next.inj (e.symm.trans h)
    exact .inl ⟨rfl, rfl⟩
  · by_cases hvalid : s.index.val = 14 ∧ xorAcc (s.buffer.toList.take 14) = b
    · obtain ⟨hi, hx⟩ := hvalid
      obtain ⟨u, hturn, -, hload⟩ := decoderTurn_completes (g := g) hi hcmd hx
      obtain rfl := Host.Outcome.next.inj (hturn.symm.trans h)
      obtain ⟨hrest, hdisplay⟩ := hload
      exact .inr (.inl ⟨b, rest, hi, hcmd, hrest, hx, hdisplay⟩)
    · obtain rfl := Host.Outcome.next.inj (e.symm.trans h)
      exact .inl (decoderStep_display_of_not_valid hvalid)
  · have hidle : s.index = 0 := Fin.ext hi
    by_cases hck : ck = checksumOf cols
    · rw [hck] at hcmd
      obtain ⟨u, hturn, -, hload⟩ := decoderTurn_loads_frame hidle hcmd
      obtain rfl := Host.Outcome.next.inj (hturn.symm.trans h)
      exact .inr (.inr ⟨rfl, cols, rest, hidle, hcmd, hload⟩)
    · obtain rfl := Host.Outcome.next.inj (e.symm.trans h)
      rw [runBytes_spectrum_of_ne hidle hck]
      exact .inl ⟨rfl, rfl⟩

theorem relayTurn_display (s : State) : DisplayKept s (relayTurn s) := by
  obtain ⟨-, -, hshown, -, -, hloads, -⟩ := relayTurn_frame s
  exact ⟨hshown, hloads⟩

/-- A free turn changes the display by completing a candidate only. -/
theorem freeTurn_display {s t : State} (h : freeTurn s = .next t) : DisplayKept s t ∨ LoadsCandidate s t := by
  have hdecoder : ∀ u : State, decoderTurn .byte u = .next t → DisplayKept u t ∨ LoadsCandidate u t := by
    intro u hturn
    rcases decoderTurn_display hturn with hkept | hloads | ⟨hg, -⟩
    · exact .inl hkept
    · exact .inr hloads
    · cases hg
  rcases freeTurn_cases s with e | e | e | e <;> rw [e] at h
  · exact hdecoder s h
  · obtain rfl := Host.Outcome.next.inj h
    exact .inl (relayTurn_display s)
  · obtain rfl := Host.Outcome.next.inj h
    exact .inl (relayTurn_display s.countPick)
  · exact hdecoder s.countPick h

/-- What a move can do to the display: a decoder's turn may load, and power-on darkens it. -/
theorem takeMove_display {m : Move} {s t : State} (h : takeMove m s = .next t) :
    DisplayKept s t ∨ ((m = .decode ∨ m = .command) ∧ LoadsCandidate s t) ∨ (m = .command ∧ LoadsFrame s t) ∨
      (m = .powerOn ∧ t.shown = Config.shownInit ∧ t.loads = []) := by
  cases m with
  | decode =>
    rcases decoderTurn_display h with hkept | hloads | ⟨hg, -⟩
    · exact .inl hkept
    · exact .inr (.inl ⟨.inl rfl, hloads⟩)
    · cases hg
  | command =>
    rcases decoderTurn_display h with hkept | hloads | ⟨-, hframe⟩
    · exact .inl hkept
    · exact .inr (.inl ⟨.inr rfl, hloads⟩)
    · exact .inr (.inr (.inl ⟨rfl, hframe⟩))
  | relay =>
    obtain rfl := Host.Outcome.next.inj h
    exact .inl (relayTurn_display s)
  | powerOn =>
    obtain rfl := Host.Outcome.next.inj h
    exact .inr (.inr (.inr ⟨rfl, rfl, rfl⟩))
  | reset | resetWithByte | deliverCommand | deliverSensor | hostReady =>
    obtain rfl := Host.Outcome.next.inj h
    exact .inl ⟨rfl, rfl⟩

/-- The first half of R110 in the model's terms: every change of the display is one of three. -/
theorem step_display {s t : State} (h : step s = .next t) :
    DisplayKept s t ∨
    ((s.agenda = [] ∨ ∃ ms, s.agenda = .decode :: ms ∨ s.agenda = .command :: ms) ∧ LoadsCandidate s t) ∨
    ((∃ ms, s.agenda = .command :: ms) ∧ LoadsFrame s t) ∨
    ((∃ ms, s.agenda = .powerOn :: ms) ∧ t.shown = Config.shownInit ∧ t.loads = []) := by
  rcases step_cases s with ⟨hagenda, e⟩ | ⟨m, ms, hagenda, e⟩ <;> rw [e] at h
  · rcases freeTurn_display h with hkept | hloads
    · exact .inl hkept
    · exact .inr (.inl ⟨.inl hagenda, hloads⟩)
  · rcases takeMove_display h with hkept | ⟨rfl | rfl, hloads⟩ | ⟨rfl, hframe⟩ | ⟨rfl, hdark⟩
    · exact .inl hkept
    · exact .inr (.inl ⟨.inr ⟨ms, .inl hagenda⟩, hloads⟩)
    · exact .inr (.inl ⟨.inr ⟨ms, .inr hagenda⟩, hloads⟩)
    · exact .inr (.inr (.inl ⟨⟨ms, hagenda⟩, hframe⟩))
    · exact .inr (.inr (.inr ⟨⟨ms, hagenda⟩, hdark⟩))

/-- A step that completes a valid candidate loads, at whichever decoder's turn. -/
theorem step_completes {s : State} {b : Byte} {rest : List Byte}
    (hturn : (s.agenda = [] ∧ s.sensorIn = []) ∨ ∃ ms, s.agenda = .decode :: ms ∨ s.agenda = .command :: ms)
    (hi : s.index.val = 14) (hcmd : s.cmdIn = b :: rest) (hx : xorAcc (s.buffer.toList.take 14) = b) :
    ∃ t, step s = .next t ∧ t.index = 0 ∧ t.cmdIn = rest ∧
      t.loads = s.loads ++ [compose (columnsOf s.buffer)] ∧ t.shown = compose (columnsOf s.buffer) := by
  rcases hturn with ⟨hagenda, hsensor⟩ | ⟨ms, hagenda | hagenda⟩
  · rw [step_of_agenda_nil hagenda, freeTurn_of_sensorIn_nil hsensor]
    exact decoderTurn_completes hi hcmd hx
  · rw [step_of_agenda hagenda]
    exact decoderTurn_completes (g := .byte) (s := s.setAgenda ms) hi hcmd hx
  · rw [step_of_agenda hagenda]
    exact decoderTurn_completes (g := .command) (s := s.setAgenda ms) hi hcmd hx

/-- Settles O43: a step changes the display only through a decoder's turn that loads or a power-on, and such a
decoder's turn always loads. -/
theorem displayChangesOnlyByLoadOrPowerOn : Obligations.DisplayChangesOnlyByLoadOrPowerOn := by
  refine ⟨fun s t h => ?_, fun s b rest hturn hi hcmd hx => step_completes hturn hi hcmd hx, ?_⟩
  · rcases step_display h with hkept | ⟨hturn, b, rest, hloads⟩ | ⟨⟨ms, hagenda⟩, cols, rest, hframe⟩ |
      ⟨⟨ms, hagenda⟩, hshown, hloads⟩
    · exact .inl hkept
    · exact .inr (.inl ⟨b, rest, hturn, hloads⟩)
    · exact .inr (.inr (.inl ⟨cols, rest, ms, hagenda, hframe⟩))
    · exact .inr (.inr (.inr ⟨ms, hagenda, hshown.trans shownInit_eq, hloads⟩))
  · intro s cols rest ms hagenda hidle hcmd
    rw [step_of_agenda hagenda]
    exact decoderTurn_loads_frame (s := s.setAgenda ms) hidle hcmd

end Sys2Proof.Machine
end
